-- ==== Sys2Proof/Word.lean ====
section
/-! DEFINITION. The words of the FRDCS: the bus word, the 16-bit operand and the byte, the two colours, a vertex, and the
one plain arithmetic function the spec's length rules use. -/
namespace Sys2Proof

/-- A u8: a framebuffer byte, a character, a command byte. -/
abbrev Byte := BitVec 8

/-- A u16: a coordinate or a scalar operand (R104). -/
abbrev Half := BitVec 16

/-- A u32: one word of the command queue or of a register. -/
abbrev Word := BitVec 32

/-- The 1-bit colour: Black clears a pixel, White sets it (R12). -/
inductive Colour
  | black
  | white
  deriving DecidableEq, Repr

/-- The pixel bit a colour writes (R12: Black = 0, White = 1). -/
def Colour.bit : Colour → Bool
  | .black => false
  | .white => true

/-- The colour a C bit stands for (R102). -/
def Colour.ofBit : Bool → Colour
  | false => .black
  | true => .white

/-- A vertex: a pair of unsigned coordinates (R104). -/
structure Vertex where
  x : Half
  y : Half
  deriving DecidableEq, Repr

/-- `ceil(n / d)`, for d ≥ 1 (the lengths of R105 and R106). -/
def divUp (n d : Nat) : Nat := (n + (d - 1)) / d

end Sys2Proof
end

