-- ==== Sys2Proof/Syntax.lean ====
section
/-! DEFINITION. The 26 operations of the FRDCS (R3, R107), one constructor per row of spec/opcode_table.json. A byte
payload is the list of its bytes: its length is the operand L or n, or is fixed by w and h (WellFormed.lean). -/
namespace Sys2Proof

/-- A valid descriptor, with its operands (R106, R107). -/
inductive Instr
  | setPixel (c : Colour) (x y : Half)
  | fill (c : Colour)
  | loadRaw (bytes : List Byte)
  | setCursor (x y : Half)
  | line (c : Colour) (x0 y0 x1 y1 : Half)
  | rect (c : Colour) (x0 y0 x1 y1 : Half)
  | fillRect (c : Colour) (x0 y0 x1 y1 : Half)
  | circle (c : Colour) (cx cy r : Half)
  | fillCircle (c : Colour) (cx cy r : Half)
  | arc (c : Colour) (cx cy r start sweep : Half)
  | arcRL (c : Colour) (cx cy r start sweep : Half)
  | polyline (c : Colour) (vs : List Vertex)
  | bitmap (c : Colour) (x y w h : Half) (bytes : List Byte)
  | writeChar (c : Colour) (font ch : Byte)
  | writeString (c : Colour) (font : Byte) (chars : List Byte)
  | init
  | flush
  | setContrast (value : Byte)
  | setDisplayOn (on : Bool)
  | invertDisplay (on : Bool)
  | scrollR (startRow endRow : Byte)
  | scrollL (startRow endRow : Byte)
  | scrollDR (startRow endRow : Byte)
  | scrollDL (startRow endRow : Byte)
  | stopScroll
  | reset
  deriving DecidableEq, Repr

end Sys2Proof
end

