-- ==== Sys2Proof/WellFormed.lean ====
section
/-! DEFINITION. Which terms of `Instr` are descriptors: the payload word count N is a u16 (R101), and a byte payload has the
length its operands give (R106). Every other operand is legal at every value of its type. -/
namespace Sys2Proof

/-- The terms that some descriptor encodes (R101, R106). -/
def Instr.wf : Instr → Bool
  | .loadRaw bytes => decide (1 + divUp bytes.length 4 ≤ 65535)
  | .polyline _ vs => decide (1 + vs.length ≤ 65535)
  | .bitmap _ _ _ w h bytes =>
      decide (bytes.length = divUp w.toNat 8 * h.toNat) && decide (2 + divUp bytes.length 4 ≤ 65535)
  | .writeString _ _ chars => decide (chars.length ≤ 65535)
  | .setPixel .. | .fill .. | .setCursor .. | .line .. | .rect .. | .fillRect .. | .circle .. | .fillCircle ..
  | .arc .. | .arcRL .. | .writeChar .. | .init | .flush | .setContrast .. | .setDisplayOn .. | .invertDisplay ..
  | .scrollR .. | .scrollL .. | .scrollDR .. | .scrollDL .. | .stopScroll | .reset => true

end Sys2Proof
end

