-- ==== Sys2Proof/Decode.lean ====
section
/-! DEFINITION. The descriptor encoding of 30_encoding.md: the decoder, total on any list of words and rejecting by name
in the order of R110, and after it the encoder, written from the same tables R101, R106 and R107. -/
namespace Sys2Proof

/-- The assigned opcodes, by mnemonic (R107). -/
inductive Op
  | setPixel | fill | loadRaw | setCursor
  | line | rect | fillRect | circle | fillCircle | arc | arcRL | polyline | bitmap
  | writeChar | writeString
  | init | flush | setContrast | setDisplayOn | invertDisplay
  | scrollR | scrollL | scrollDR | scrollDL | stopScroll | reset
  deriving DecidableEq, Repr

/-- Why a list of words is not a valid descriptor. The last five are items 1 to 5 of R110. -/
inductive DecodeError
  | truncated
  | unassignedOpcode
  | reservedHeaderBits
  | colourBitSet
  | wrongLength
  | reservedPayloadBits
  deriving DecidableEq, Repr

/-- OP, header bits [7:0] (R101). -/
def opField (h : Word) : Byte := h.extractLsb' 0 8

/-- C, header bit [8] (R101). -/
def cField (h : Word) : Bool := h.getLsbD 8

/-- RSV, header bits [15:9] (R101). -/
def rsvField (h : Word) : BitVec 7 := h.extractLsb' 9 7

/-- N, header bits [31:16], the payload word count (R101). -/
def nField (h : Word) : Nat := (h.extractLsb' 16 16).toNat

/-- Bits [15:0] of a payload word. -/
def loHalf (v : Word) : Half := v.extractLsb' 0 16

/-- Bits [31:16] of a payload word. -/
def hiHalf (v : Word) : Half := v.extractLsb' 16 16

/-- Byte k of a payload word, bits [8k+7:8k] (R105). -/
def byteLane (v : Word) (k : Nat) : Byte := v.extractLsb' (8 * k) 8

/-- The opcode map (R107); every other code is unassigned (R112). -/
def opOfCode (b : Byte) : Option Op :=
  match b.toNat with
  | 0x01 => some .setPixel
  | 0x02 => some .fill
  | 0x03 => some .loadRaw
  | 0x04 => some .setCursor
  | 0x10 => some .line
  | 0x11 => some .rect
  | 0x12 => some .fillRect
  | 0x13 => some .circle
  | 0x14 => some .fillCircle
  | 0x15 => some .arc
  | 0x16 => some .arcRL
  | 0x17 => some .polyline
  | 0x18 => some .bitmap
  | 0x20 => some .writeChar
  | 0x21 => some .writeString
  | 0x30 => some .init
  | 0x31 => some .flush
  | 0x32 => some .setContrast
  | 0x33 => some .setDisplayOn
  | 0x34 => some .invertDisplay
  | 0x35 => some .scrollR
  | 0x36 => some .scrollL
  | 0x37 => some .scrollDR
  | 0x38 => some .scrollDL
  | 0x39 => some .stopScroll
  | 0x3A => some .reset
  | _ => none

/-- The ops whose C column in R107 is not 0: C is a colour or `on`. -/
def Op.usesC : Op → Bool
  | .setPixel | .fill | .line | .rect | .fillRect | .circle | .fillCircle | .arc | .arcRL | .polyline | .bitmap
  | .writeChar | .writeString | .setDisplayOn | .invertDisplay => true
  | .loadRaw | .setCursor | .init | .flush | .setContrast | .scrollR | .scrollL | .scrollDR | .scrollDL
  | .stopScroll | .reset => false

/-- The bytes packed in payload words, lowest lane first (R105). -/
def bytesOfWords : List Word → List Byte
  | [] => []
  | v :: vs => byteLane v 0 :: byteLane v 1 :: byteLane v 2 :: byteLane v 3 :: bytesOfWords vs

/-- An XY word as a vertex (R104). -/
def vertexOf (v : Word) : Vertex := { x := loHalf v, y := hiHalf v }

/-- Payload word k, for a payload that has it. -/
def payloadWord (p : List Word) (k : Nat) : Word := p.getD k 0

/-- The only N an op accepts, given its payload; none where the payload lacks the word that fixes it (R108, R110 item 4). -/
def requiredN (op : Op) (p : List Word) : Option Nat :=
  match op with
  | .fill | .init | .flush | .setDisplayOn | .invertDisplay | .stopScroll | .reset => some 0
  | .setPixel | .setCursor | .writeChar | .setContrast | .scrollR | .scrollL | .scrollDR | .scrollDL => some 1
  | .line | .rect | .fillRect | .circle | .fillCircle => some 2
  | .arc | .arcRL => some 3
  | .loadRaw => p[0]?.map fun p0 => 1 + divUp p0.toNat 4
  | .polyline => p[0]?.map fun p0 => 1 + (loHalf p0).toNat
  | .bitmap => p[1]?.map fun p1 => 2 + divUp (divUp (loHalf p1).toNat 8 * (hiHalf p1).toNat) 4
  | .writeString => p[0]?.map fun p0 => 1 + divUp (loHalf p0).toNat 4

/-- Every payload field that R106 marks rsv is 0 (R110 item 5). -/
def payloadRsvZero (op : Op) (p : List Word) : Bool :=
  match op with
  | .circle | .fillCircle | .arc | .arcRL => hiHalf (payloadWord p 1) == 0
  | .polyline | .writeChar | .scrollR | .scrollL | .scrollDR | .scrollDL => hiHalf (payloadWord p 0) == 0
  | .writeString => byteLane (payloadWord p 0) 3 == 0
  | .setContrast => (payloadWord p 0).extractLsb' 8 24 == 0
  | .setPixel | .fill | .loadRaw | .setCursor | .line | .rect | .fillRect | .bitmap | .init | .flush | .setDisplayOn
  | .invertDisplay | .stopScroll | .reset => true

/-- The instruction of a payload that passed every check of R110, field by field as R106 lays them out. -/
def buildInstr (op : Op) (cBit : Bool) (p : List Word) : Instr :=
  let c := Colour.ofBit cBit
  let p0 := payloadWord p 0
  let p1 := payloadWord p 1
  let p2 := payloadWord p 2
  match op with
  | .setPixel => .setPixel c (loHalf p0) (hiHalf p0)
  | .fill => .fill c
  | .loadRaw => .loadRaw ((bytesOfWords (p.drop 1)).take p0.toNat)
  | .setCursor => .setCursor (loHalf p0) (hiHalf p0)
  | .line => .line c (loHalf p0) (hiHalf p0) (loHalf p1) (hiHalf p1)
  | .rect => .rect c (loHalf p0) (hiHalf p0) (loHalf p1) (hiHalf p1)
  | .fillRect => .fillRect c (loHalf p0) (hiHalf p0) (loHalf p1) (hiHalf p1)
  | .circle => .circle c (loHalf p0) (hiHalf p0) (loHalf p1)
  | .fillCircle => .fillCircle c (loHalf p0) (hiHalf p0) (loHalf p1)
  | .arc => .arc c (loHalf p0) (hiHalf p0) (loHalf p1) (loHalf p2) (hiHalf p2)
  | .arcRL => .arcRL c (loHalf p0) (hiHalf p0) (loHalf p1) (loHalf p2) (hiHalf p2)
  | .polyline => .polyline c ((p.drop 1).map vertexOf)
  | .bitmap =>
      .bitmap c (loHalf p0) (hiHalf p0) (loHalf p1) (hiHalf p1)
        ((bytesOfWords (p.drop 2)).take (divUp (loHalf p1).toNat 8 * (hiHalf p1).toNat))
  | .writeChar => .writeChar c (byteLane p0 1) (byteLane p0 0)
  | .writeString => .writeString c (byteLane p0 2) ((bytesOfWords (p.drop 1)).take (loHalf p0).toNat)
  | .init => .init
  | .flush => .flush
  | .setContrast => .setContrast (byteLane p0 0)
  | .setDisplayOn => .setDisplayOn cBit
  | .invertDisplay => .invertDisplay cBit
  | .scrollR => .scrollR (byteLane p0 0) (byteLane p0 1)
  | .scrollL => .scrollL (byteLane p0 0) (byteLane p0 1)
  | .scrollDR => .scrollDR (byteLane p0 0) (byteLane p0 1)
  | .scrollDL => .scrollDL (byteLane p0 0) (byteLane p0 1)
  | .stopScroll => .stopScroll
  | .reset => .reset

/-- The checks of R110, in its order, on a header and exactly its N payload words. -/
def decodeDescriptor (h : Word) (p : List Word) : Except DecodeError Instr :=
  match opOfCode (opField h) with
  | none => .error .unassignedOpcode
  | some op =>
    if rsvField h ≠ 0 then .error .reservedHeaderBits
    else if cField h && !op.usesC then .error .colourBitSet
    else if requiredN op p ≠ some (nField h) then .error .wrongLength
    else if !payloadRsvZero op p then .error .reservedPayloadBits
    else .ok (buildInstr op (cField h) p)

/-- Decodes the descriptor at the head of a list of words and answers the words after it. The header alone says how many words
the descriptor has (R100, R103); with fewer words it is not there yet (R111). -/
def decode : List Word → Except DecodeError (Instr × List Word)
  | [] => .error .truncated
  | h :: ws =>
    if ws.length < nField h then .error .truncated
    else
      match decodeDescriptor h (ws.take (nField h)) with
      | .error e => .error e
      | .ok i => .ok (i, ws.drop (nField h))

/-! ### The encoder -/

/-- The code of an opcode (R107). -/
def Op.code : Op → Byte
  | .setPixel => 0x01
  | .fill => 0x02
  | .loadRaw => 0x03
  | .setCursor => 0x04
  | .line => 0x10
  | .rect => 0x11
  | .fillRect => 0x12
  | .circle => 0x13
  | .fillCircle => 0x14
  | .arc => 0x15
  | .arcRL => 0x16
  | .polyline => 0x17
  | .bitmap => 0x18
  | .writeChar => 0x20
  | .writeString => 0x21
  | .init => 0x30
  | .flush => 0x31
  | .setContrast => 0x32
  | .setDisplayOn => 0x33
  | .invertDisplay => 0x34
  | .scrollR => 0x35
  | .scrollL => 0x36
  | .scrollDR => 0x37
  | .scrollDL => 0x38
  | .stopScroll => 0x39
  | .reset => 0x3A

/-- The row of R107 an instruction belongs to. -/
def Instr.op : Instr → Op
  | .setPixel .. => .setPixel
  | .fill .. => .fill
  | .loadRaw .. => .loadRaw
  | .setCursor .. => .setCursor
  | .line .. => .line
  | .rect .. => .rect
  | .fillRect .. => .fillRect
  | .circle .. => .circle
  | .fillCircle .. => .fillCircle
  | .arc .. => .arc
  | .arcRL .. => .arcRL
  | .polyline .. => .polyline
  | .bitmap .. => .bitmap
  | .writeChar .. => .writeChar
  | .writeString .. => .writeString
  | .init => .init
  | .flush => .flush
  | .setContrast .. => .setContrast
  | .setDisplayOn .. => .setDisplayOn
  | .invertDisplay .. => .invertDisplay
  | .scrollR .. => .scrollR
  | .scrollL .. => .scrollL
  | .scrollDR .. => .scrollDR
  | .scrollDL .. => .scrollDL
  | .stopScroll => .stopScroll
  | .reset => .reset

/-- The C bit of an instruction's header (R102). -/
def Instr.cBit : Instr → Bool
  | .setPixel c .. | .fill c | .line c .. | .rect c .. | .fillRect c .. | .circle c .. | .fillCircle c .. | .arc c ..
  | .arcRL c .. | .polyline c .. | .bitmap c .. | .writeChar c .. | .writeString c .. => c.bit
  | .setDisplayOn on | .invertDisplay on => on
  | .loadRaw .. | .setCursor .. | .init | .flush | .setContrast .. | .scrollR .. | .scrollL .. | .scrollDR ..
  | .scrollDL .. | .stopScroll | .reset => false

/-- The XY word of a coordinate pair, or any word of two halves: bits [15:0] then [31:16] (R104). -/
def halves (lo hi : Half) : Word := hi ++ lo

/-- The word of four byte lanes, lowest first (R105). -/
def lanes (b0 b1 b2 b3 : Byte) : Word := b3 ++ b2 ++ b1 ++ b0

/-- Byte payload packed into words, lowest lane first. Padding bytes, which R105 leaves free, are written 0 (log 18). -/
def wordsOfBytes : List Byte → List Word
  | [] => []
  | [a] => [lanes a 0 0 0]
  | [a, b] => [lanes a b 0 0]
  | [a, b, c] => [lanes a b c 0]
  | a :: b :: c :: d :: rest => lanes a b c d :: wordsOfBytes rest

/-- The payload words of an instruction (R106). -/
def Instr.payload : Instr → List Word
  | .setPixel _ x y | .setCursor x y => [halves x y]
  | .line _ x0 y0 x1 y1 | .rect _ x0 y0 x1 y1 | .fillRect _ x0 y0 x1 y1 => [halves x0 y0, halves x1 y1]
  | .circle _ cx cy r | .fillCircle _ cx cy r => [halves cx cy, halves r 0]
  | .arc _ cx cy r start sweep | .arcRL _ cx cy r start sweep => [halves cx cy, halves r 0, halves start sweep]
  | .polyline _ vs => halves (BitVec.ofNat 16 vs.length) 0 :: vs.map fun v => halves v.x v.y
  | .bitmap _ x y w h bytes => halves x y :: halves w h :: wordsOfBytes bytes
  | .loadRaw bytes => BitVec.ofNat 32 bytes.length :: wordsOfBytes bytes
  | .writeChar _ font ch => [lanes ch font 0 0]
  | .writeString _ font chars => (0#8 ++ font ++ BitVec.ofNat 16 chars.length : Word) :: wordsOfBytes chars
  | .setContrast value => [lanes value 0 0 0]
  | .scrollR s e | .scrollL s e | .scrollDR s e | .scrollDL s e => [lanes s e 0 0]
  | .fill .. | .init | .flush | .setDisplayOn .. | .invertDisplay .. | .stopScroll | .reset => []

/-- The header word {N, RSV = 0, C, OP} (R101). -/
def headerWord (op : Op) (c : Bool) (n : Nat) : Word := BitVec.ofNat 16 n ++ 0#7 ++ BitVec.ofBool c ++ op.code

/-- The words of a well-formed instruction: its header and its payload (R100). -/
def encode (i : Instr) : List Word := headerWord i.op i.cBit i.payload.length :: i.payload

/-! ### The table's numbering -/

/-- The words of a descriptor whose bits are w as spec/opcode_table.json numbers them: bit 0 is the header's least
significant bit, payload word k is bits [32k+63:32k+32]. There are 1 + N of them, N read from the header; bits above nbits are 0. -/
def tableWords (nbits w : Nat) : List Word :=
  let v := w % 2 ^ nbits
  (List.range (1 + nField (BitVec.ofNat 32 v))).map fun k => BitVec.ofNat 32 (v >>> (32 * k))

/-- The instruction the decoder reads from a table word, none where it refuses. -/
def decodeTableWord (nbits w : Nat) : Option Instr :=
  match decode (tableWords nbits w) with
  | .ok (i, _) => some i
  | .error _ => none

end Sys2Proof
end

