-- ==== Sys2Proof/Config.lean ====
section
/-! DEFINITION. The configuration record of R8: what one FRDCS instance fixes. `Config` carries the proof of R8's
constraints, so a configuration that breaks one cannot be built (R9). The last definition is the one free value the
spec leaves open inside the block (R310). -/
namespace Sys2Proof

/-- A glyph of the font ROM: width, height and its bitmap bytes in the layout of R192 (R200). -/
structure Glyph where
  gw : Half
  gh : Half
  gb : List Byte
  deriving DecidableEq, Repr

/-- One row of the font ROM. A (font, ch) with no row is "glyph not found". Since there are 2^16 pairs, every total
function `FontId × Char → Option Glyph` (R8, R200) is some finite list of rows. -/
structure FontRow where
  font : Byte
  ch : Byte
  glyph : Glyph
  deriving DecidableEq, Repr

/-- One byte of a command that takes operands: a constant, or the first or second operand plus a constant, modulo 256. -/
inductive CmdByte
  | lit (b : Byte)
  | fst (add : Byte)
  | snd (add : Byte)
  deriving DecidableEq, Repr

/-- One operand pair for which a command's bytes do not follow its pattern. -/
structure CmdCase where
  fst : Nat
  snd : Nat
  bytes : List Byte
  deriving DecidableEq, Repr

/-- A CMDTAB entry that takes operands: a pattern of bytes and the operands for which other bytes are sent. The cases make every
function of the operands expressible (R220: "a function of the operands named and of the configuration only"). -/
structure CmdEntry where
  pattern : List CmdByte
  cases : List CmdCase
  deriving DecidableEq, Repr

/-- CMDTAB, the table of named command byte sequences (R220). An entry without operands is its bytes. DESIGN CHOICE (log 26): no entry is
tied to another parameter, so `column` need not follow `xOffset`, nor `multiplex` and `comPins` follow `h`. -/
structure CmdTab where
  displayOff : List Byte
  clockDiv : List Byte
  multiplex : List Byte
  displayOffset : List Byte
  startLine : List Byte
  chargePump : List Byte
  addrMode : List Byte
  segRemap : List Byte
  comScan : List Byte
  comPins : List Byte
  contrast : CmdEntry
  precharge : List Byte
  vcomDeselect : List Byte
  normal : List Byte
  inverted : List Byte
  displayOn : List Byte
  page : CmdEntry
  column : List Byte
  scrollR : CmdEntry
  scrollL : CmdEntry
  scrollDR : CmdEntry
  scrollDL : CmdEntry
  scrollActivate : List Byte
  scrollDeactivate : List Byte
  deriving DecidableEq, Repr

/-- The parameters of R8, before their constraints are checked. `base` is FRDCS_BASE (R70). -/
structure ConfigData where
  w : Nat
  h : Nat
  xOffset : Byte
  arcStep : Nat
  cmdqDepth : Nat
  font : List FontRow
  cmdTab : CmdTab
  resetHoldMs : Half
  resetSettleMs : Half
  contrastDefault : Byte
  base : Nat
  deriving DecidableEq, Repr

/-- The legal values of R8, and the glyph length of R200. -/
def ConfigData.isLegal (d : ConfigData) : Bool :=
  decide (1 ≤ d.w) && decide (d.w ≤ 65535)
    && decide (8 ≤ d.h) && decide (d.h ≤ 65528) && decide (d.h % 8 = 0)
    && decide (d.w * d.h / 8 ≤ 65536)
    && decide (1 ≤ d.arcStep) && decide (d.arcStep ≤ 255)
    && decide (2 ≤ d.cmdqDepth)
    && d.font.all (fun r => r.glyph.gb.length == divUp r.glyph.gw.toNat 8 * r.glyph.gh.toNat)

/-- A configuration of an FRDCS: R8's record with the proof that it is legal (R9). -/
structure Config extends ConfigData where
  legal : toConfigData.isLegal = true
  deriving DecidableEq, Repr

/-- FBSIZE = W·H/8, the framebuffer's length in bytes (R8, R30). -/
def Config.fbSize (c : Config) : Nat := c.w * c.h / 8

/-- NPAGES = H/8 (R8). -/
def Config.npages (c : Config) : Nat := c.h / 8

/-- FREE VALUE (log 11): what a host read of FBWIN or CURSOR returns while BUSY = 1, "an unspecified value" (R310). The
argument is the count of such draws so far. Nothing constrains it. -/
opaque Config.freeRead : Nat → Word

end Sys2Proof
end

