-- ==== Sys2Proof/Machine/Defaults.lean ====
section
/-! DEFINITION. The default instance of R8, which `State.reset` carries: the spec's default numbers, the default CMDTAB of
R220 (PRESUMED: the SSD1306 family's bytes, 93_implementation_defined.md G2, log 4), the spec's test font FONT_T
(95_test_vectors.md section 0.1, log 3). No rule of the model and no general statement rests on these values. -/
namespace Sys2Proof.Machine

/-- A CMDTAB entry whose pattern holds for every operand. -/
def patternEntry (pattern : List CmdByte) : CmdEntry := { pattern := pattern, cases := [] }

/-- The default column of R220, as a function of H and X_OFFSET. PRESUMED (log 4). -/
def defaultCmdTab (h : Nat) (xOffset : Byte) : CmdTab where
  displayOff := [0xAE]
  clockDiv := [0xD5, 0x80]
  multiplex := [0xA8, BitVec.ofNat 8 (h - 1)]
  displayOffset := [0xD3, 0x00]
  startLine := [0x40]
  chargePump := [0x8D, 0x14]
  addrMode := [0x20, 0x02]
  segRemap := [0xA1]
  comScan := [0xC8]
  comPins := [0xDA, if h = 32 then 0x02 else 0x12]
  contrast := patternEntry [.lit 0x81, .fst 0]
  precharge := [0xD9, 0xF1]
  vcomDeselect := [0xDB, 0x20]
  normal := [0xA6]
  inverted := [0xA7]
  displayOn := [0xAF]
  page := patternEntry [.fst 0xB0]
  column := [BitVec.ofNat 8 (xOffset.toNat % 16), 0x10 + BitVec.ofNat 8 (xOffset.toNat / 16)]
  scrollR := patternEntry [.lit 0x26, .lit 0x00, .fst 0, .lit 0x00, .snd 0, .lit 0x00, .lit 0xFF]
  scrollL := patternEntry [.lit 0x27, .lit 0x00, .fst 0, .lit 0x00, .snd 0, .lit 0x00, .lit 0xFF]
  scrollDR := patternEntry [.lit 0x29, .lit 0x00, .fst 0, .lit 0x00, .snd 0, .lit 0x01]
  scrollDL := patternEntry [.lit 0x2A, .lit 0x00, .fst 0, .lit 0x00, .snd 0, .lit 0x01]
  scrollActivate := [0x2F]
  scrollDeactivate := [0x2E]

/-- FONT_T, the spec's test font: 'A', 'B' and ' ' of font 0 (95_test_vectors.md section 0.1). DESIGN CHOICE (log 3). -/
def fontT : List FontRow :=
  [ { font := 0, ch := 0x41, glyph := { gw := 5, gh := 8, gb := [0x70, 0x88, 0x88, 0xF8, 0x88, 0x88, 0x88, 0x00] } },
    { font := 0, ch := 0x42, glyph := { gw := 5, gh := 8, gb := [0xF0, 0x88, 0x88, 0xF0, 0x88, 0x88, 0xF0, 0x00] } },
    { font := 0, ch := 0x20, glyph := { gw := 3, gh := 8, gb := [0x00, 0x00, 0x00, 0x00, 0x00, 0x00, 0x00, 0x00] } } ]

/-- The defaults of R8. FRDCS_BASE has none in the spec: 0 here, DESIGN CHOICE (log 5). -/
def defaultData : ConfigData where
  w := 128
  h := 64
  xOffset := 0
  arcStep := 1
  cmdqDepth := 1024
  font := fontT
  cmdTab := defaultCmdTab 64 0
  resetHoldMs := 10
  resetSettleMs := 10
  contrastDefault := 0x7F
  base := 0

theorem defaultData_isLegal : defaultData.isLegal = true := by decide

/-- The default instance (R8). -/
def defaultConfig : Config := { toConfigData := defaultData, legal := defaultData_isLegal }

end Sys2Proof.Machine
end

