-- ==== Sys2Proof/Machine/State.lean ====
section
/-! DEFINITION. The state of the FRDCS (10_state.md): plain data, every piece of state the spec names, then the agents around
the engine (R14) as plain data: the Transport's answers, the host's program, the schedule, and what went out to both. -/
namespace Sys2Proof.Machine

/-- The controller state (R34). -/
inductive CtrlState
  | uninitialized
  | initOff
  | initOn
  deriving DecidableEq, Repr

/-- The status codes a descriptor completes with (R270). -/
inductive Status
  | ok
  | sizeMismatch
  | busError
  | glyphOverflow
  | notInit
  | illegal
  deriving DecidableEq, Repr

/-- The four kinds of Transport request (R52). -/
inductive TxRequest
  | cmd (b : Byte)
  | data (bs : List Byte)
  | reset (active : Bool)
  | delay (ms : Half)
  deriving DecidableEq, Repr

/-- The Transport's answer to a TxCmd or a TxData (R52). TxReset and TxDelay have none. -/
inductive TxAnswer
  | ok
  | busError
  deriving DecidableEq, Repr

/-- Where a request stands at the end of a step: finished, failed, or not finished yet (R52). -/
inductive TxEnd
  | done
  | failed
  | pending
  deriving DecidableEq, Repr

/-- What a controller descriptor still has to do: the lines of its pseudocode that are left (43_controller.md). -/
inductive Micro
  | tx (r : TxRequest)
  | setCtrl (c : CtrlState)
  | clearFb
  deriving DecidableEq, Repr

/-- A controller descriptor that waits for a request to finish: that request, what follows once it has, and the ctrlState a
BUS_ERROR leaves (none: unchanged). -/
structure Wait where
  awaiting : TxRequest
  rest : List Micro
  failTo : Option CtrlState
  deriving DecidableEq, Repr

/-- The engine phase (R44). `exec` is a descriptor that waits for a Transport request to finish, `discard k` an oversize descriptor with k
payload words still to drop. -/
inductive Phase
  | idle
  | exec (w : Wait)
  | discard (k : Nat)
  deriving DecidableEq, Repr

/-- The width of a host bus access (R73). -/
inductive AccessWidth
  | w8
  | w16
  | w32
  deriving DecidableEq, Repr

/-- A host access to a bus address (R70, R73). -/
inductive HostAccess
  | read (width : AccessWidth) (addr : Nat)
  | write (width : AccessWidth) (addr : Nat) (value : Word)
  deriving DecidableEq, Repr

/-- What a host read returned, zero-extended to 32 bits. -/
structure BusReply where
  width : AccessWidth
  addr : Nat
  value : Word
  deriving DecidableEq, Repr

/-- Which agent moves (R14, R273): the engine, the host with its next access, both in one cycle (R48), the Transport with an
answer to the request the engine waits for, or the block reset input (R300). -/
inductive Turn
  | engine
  | host
  | both
  | answer (a : TxAnswer)
  | blockReset
  deriving DecidableEq, Repr

/-- Memory as a list of (address, byte) pairs. Canonical form: addresses strictly rising, no byte 0x00, which is what an
unlisted address reads as (R54, log 1). -/
abbrev Memory := List Host.Cell

/-- The machine. `cfg` is the instance's configuration (R8), which no step writes. The fields from `txAnswers` on are the model's own
(INVENTORY.md, State). -/
structure State where
  /-- The configuration (R8). -/
  cfg : Config
  /-- FB, keyed by byte index (R30). -/
  fb : Memory
  /-- The text cursor (R33). -/
  cursorX : Half
  cursorY : Half
  /-- The controller state (R34). -/
  ctrlState : CtrlState
  /-- The command queue Q, head first (R43). -/
  queue : List Word
  /-- The engine phase (R44). -/
  phase : Phase
  /-- The RESULT register (R46). -/
  result : Word
  /-- DONE_COUNT (R47). -/
  doneCount : Half
  /-- STATUS.ERR (R48). -/
  err : Bool
  /-- The last value passed to TxReset (R53). -/
  resetLine : Bool
  /-- A CMD write held on the bus while Q is full (R74, R300). -/
  held : Option Word
  /-- The Transport's answers that are ready, in order (R52, log 6). -/
  txAnswers : List TxAnswer
  /-- For each TxDelay to come, whether the step ends inside it, so that others can move there; empty: it does not (log 7). -/
  pauses : List Bool
  /-- Every Transport request issued, oldest first (log 12). -/
  txLog : List TxRequest
  /-- Which agents move next; empty: the engine (log 9). -/
  schedule : List Turn
  /-- The host's accesses still to be made, in program order (R83, log 9). -/
  hostOps : List HostAccess
  /-- What the host's reads returned, oldest first (log 12). -/
  reads : List BusReply
  /-- How many free draws were taken (R310, log 11). -/
  draws : Nat
  deriving DecidableEq, Repr

/-- Why the machine stops. -/
inductive Fault
  /-- A host access that R73 does not list (R75, R279). Raised by a host turn, never by a descriptor. Safe: the model stops
  where the block does something unspecified. -/
  | hostAccessError
  deriving DecidableEq, Repr

/-- Why an instruction has no meaning. -/
inductive Refusal
  /-- An instruction whose arm in Dispatch.lean is not modelled yet. Raised by `exec` only. Safe. No arm raises it now. -/
  | notModelled (mnemonic : String)
  deriving DecidableEq, Repr

/-- What a step answers. -/
abbrev Outcome := Host.Outcome State Fault Refusal

/-- The machine right after block reset (R54), as the default instance, with nothing placed around it (log 2, 6, 7, 9, 11, 12). -/
def State.reset : State where
  cfg := defaultConfig
  fb := []
  cursorX := 0
  cursorY := 0
  ctrlState := .uninitialized
  queue := []
  phase := .idle
  result := 0
  doneCount := 0
  err := false
  resetLine := false
  held := none
  txAnswers := []
  pauses := []
  txLog := []
  schedule := []
  hostOps := []
  reads := []
  draws := 0

end Sys2Proof.Machine
end

