-- ==== Sys2Proof/Machine/Flags.lean ====
section
/-! DEFINITION. Status codes, the RESULT register and the registers the host reads as views of the state: STATUS, CURSOR,
GEOMETRY, CONFIG (10_state.md R45 to R49, 60_exceptions.md R270). -/
namespace Sys2Proof.Machine

/-- The number of a status code (R270). -/
def statusCode : Status → Byte
  | .ok => 0
  | .sizeMismatch => 1
  | .busError => 2
  | .glyphOverflow => 3
  | .notInit => 4
  | .illegal => 5

/-- RESULT = {DONE [31:16], VALUE [15:8], CODE [7:0]} (R46). -/
def packResult (done : Half) (value : Byte) (st : Status) : Word := done ++ value ++ statusCode st

/-- RESULT.CODE (R46). -/
def resultCode (r : Word) : Byte := r.extractLsb' 0 8

/-- RESULT.VALUE (R46). -/
def resultValue (r : Word) : Byte := r.extractLsb' 8 8

/-- RESULT.DONE (R46). -/
def resultDone (r : Word) : Half := r.extractLsb' 16 16

/-- `initialized` (R35). -/
def isInitialized (s : State) : Bool := decide (s.ctrlState ≠ .uninitialized)

/-- `displayOn` (R35). -/
def isDisplayOn (s : State) : Bool := decide (s.ctrlState = .initOn)

/-- BUSY = (phase ≠ Idle) ∨ (Q non-empty) (R45). -/
def isBusy (s : State) : Bool := decide (s.phase ≠ .idle) || !s.queue.isEmpty

/-- QFREE = min(CMDQ_DEPTH − len(Q), 0xFFFF) (R48). -/
def queueFree (s : State) : Half := BitVec.ofNat 16 (min (s.cfg.cmdqDepth - s.queue.length) 0xFFFF)

/-- The STATUS register as read (R48). -/
def statusReg (s : State) : Word :=
  queueFree s ++ 0#11 ++ BitVec.ofBool s.resetLine ++ BitVec.ofBool s.err ++ BitVec.ofBool (isDisplayOn s)
    ++ BitVec.ofBool (isInitialized s) ++ BitVec.ofBool (isBusy s)

/-- STATUS.ERR after a host write of v to STATUS: cleared by 1 in bit 3, unchanged by 0 (R48). -/
def clearErr (v : Word) (err : Bool) : Bool := err && !v.getLsbD 3

/-- The CURSOR register {cursorY, cursorX} (R49). -/
def cursorReg (s : State) : Word := s.cursorY ++ s.cursorX

/-- The GEOMETRY register {H, W} (R49). -/
def geometryReg (s : State) : Word := BitVec.ofNat 16 s.cfg.h ++ BitVec.ofNat 16 s.cfg.w

/-- The CONFIG register {min(CMDQ_DEPTH, 0xFFFF), ARC_STEP_DEG, X_OFFSET} (R49). -/
def configReg (s : State) : Word :=
  BitVec.ofNat 16 (min s.cfg.cmdqDepth 0xFFFF) ++ BitVec.ofNat 8 s.cfg.arcStep ++ s.cfg.xOffset

end Sys2Proof.Machine
end

