-- ==== Sys2Proof/Machine/Operands.lean ====
section
/-! DEFINITION. What operands stand for: coordinates in ℤ (R104), bitmap bits (R192), glyphs (R200, R201) and the bytes of
a CMDTAB entry (R220). -/
namespace Sys2Proof.Machine

/-- A pixel coordinate pair in ℤ: it may lie off-screen (R161). -/
abbrev Point := Int × Int

/-- A u16 operand zero-extended to ℤ (R104). -/
def coord (v : Half) : Int := (v.toNat : Int)

/-- The vertex as a point (R104). -/
def vertexPoint (v : Vertex) : Point := (coord v.x, coord v.y)

/-- BmpBit(b, w, i, j) = b[j·S + i/8][7 − (i mod 8)] with S = ceil(w/8): row-major, leftmost pixel in the most
significant bit (R192). -/
def bmpBit (b : List Byte) (w i j : Nat) : Bool := (b.getD (j * divUp w 8 + i / 8) 0).getLsbD (7 - i % 8)

/-- The pixels of a w×h image at (x, y) whose source bit is 1 (R193, R202). -/
def bitmapPoints (x y : Int) (w h : Nat) (b : List Byte) : List Point :=
  (List.range h).flatMap fun j =>
    ((List.range w).filter fun i => bmpBit b w i j).map fun i => (x + (i : Int), y + (j : Int))

/-- The empty glyph, which a missing glyph counts as (R201). -/
def emptyGlyph : Glyph := { gw := 0, gh := 0, gb := [] }

/-- FontLookup(f, ch) (R200). -/
def fontLookup (c : Config) (f ch : Byte) : Option Glyph :=
  (c.font.find? fun r => r.font == f && r.ch == ch).map FontRow.glyph

/-- The glyph PutGlyph draws: the font's, or the empty glyph (R201, R202). -/
def glyphFor (c : Config) (f ch : Byte) : Glyph := (fontLookup c f ch).getD emptyGlyph

/-- One byte of a command pattern, from its operands modulo 256 (R220). -/
def cmdByteValue (a b : Nat) : CmdByte → Byte
  | .lit v => v
  | .fst k => BitVec.ofNat 8 a + k
  | .snd k => BitVec.ofNat 8 b + k

/-- The bytes of a CMDTAB entry for its operands (R220). -/
def entryBytes (e : CmdEntry) (a b : Nat) : List Byte :=
  match e.cases.find? fun k => k.fst == a && k.snd == b with
  | some k => k.bytes
  | none => e.pattern.map (cmdByteValue a b)

end Sys2Proof.Machine
end

