-- ==== Sys2Proof/Machine/Ops.lean ====
section
/-! DEFINITION. The named operations every meaning is written with: framebuffer bytes and pixels (R30 to R32, R140, R141),
completing a descriptor with a status code (R272), and the Transport port with the running of a controller descriptor
(R52, R221, R273). -/
namespace Sys2Proof.Machine

/-! ### Framebuffer bytes -/

/-- The canonical form: addresses strictly rising, no listed byte equal to what an unlisted address reads as. -/
def Memory.wf (m : Memory) : Bool := decide (m.Pairwise fun a b => a.1 < b.1) && m.all fun c => c.2 != 0

/-- Byte `a`; an unlisted byte reads 0x00 (R54, log 1). -/
def Memory.read : Memory → Nat → Byte
  | [], _ => 0
  | (k, v) :: m, a => if k = a then v else Memory.read m a

/-- The memory without byte `a`. -/
def Memory.erase (m : Memory) (a : Nat) : Memory := m.filter fun c => c.1 != a

/-- Puts a byte before the first greater address. -/
def Memory.insert : Memory → Nat → Byte → Memory
  | [], a, v => [(a, v)]
  | (k, w) :: m, a, v => if a < k then (a, v) :: (k, w) :: m else (k, w) :: Memory.insert m a v

/-- Writes byte `a`, keeping the canonical form. -/
def Memory.write (m : Memory) (a : Nat) (v : Byte) : Memory :=
  if v = 0 then Memory.erase m a else Memory.insert (Memory.erase m a) a v

/-- The memory of n bytes whose byte i is `f i` (the loops over all of FB in R143, R144 and R224). -/
def Memory.tabulate (n : Nat) (f : Nat → Byte) : Memory :=
  (List.range n).filterMap fun i => if f i = 0 then none else some (i, f i)

/-! ### Pixels -/

/-- Where a coordinate pair is on the screen (R140). -/
def onScreen (c : Config) (p : Point) : Bool :=
  decide (0 ≤ p.1) && decide (p.1 < (c.w : Int)) && decide (0 ≤ p.2) && decide (p.2 < (c.h : Int))

/-- The byte that holds pixel (x, y): FB[(y / 8)·W + x] (R31). -/
def pixelByte (c : Config) (x y : Nat) : Nat := y / 8 * c.w + x

/-- GetPx(x, y), defined for on-screen (x, y) (R32). -/
def getPx (s : State) (x y : Nat) : Bool := (Memory.read s.fb (pixelByte s.cfg x y)).getLsbD (y % 8)

/-- A byte with one bit set or cleared by a colour (R140). -/
def paintBit (b : Byte) (bit : Nat) : Colour → Byte
  | .white => b ||| (1#8 <<< bit)
  | .black => b &&& ~~~(1#8 <<< bit)

/-- SetPx(x, y, c): off-screen changes nothing (R140). -/
def setPx (cfg : Config) (c : Colour) (m : Memory) (p : Point) : Memory :=
  if onScreen cfg p then
    let x := p.1.toNat
    let y := p.2.toNat
    Memory.write m (pixelByte cfg x y) (paintBit (Memory.read m (pixelByte cfg x y)) (y % 8) c)
  else m

/-- Paint(P, c): SetPx on every element of the list (R141). -/
def paint (s : State) (P : List Point) (c : Colour) : State := { s with fb := P.foldl (setPx s.cfg c) s.fb }

/-- Every byte of FB to one value (R143, R224). -/
def fillFb (s : State) (v : Byte) : State := { s with fb := Memory.tabulate s.cfg.fbSize fun _ => v }

/-- FB replaced by a byte sequence (R144, R145). -/
def loadFb (s : State) (bytes : List Byte) : State :=
  { s with fb := Memory.tabulate s.cfg.fbSize fun i => bytes.getD i 0 }

/-- The bytes of page p: FB[p·W .. p·W + W − 1] (R31, R230). -/
def pageBytes (cfg : Config) (m : Memory) (p : Nat) : List Byte :=
  (List.range cfg.w).map fun x => Memory.read m (p * cfg.w + x)

/-! ### Completion -/

/-- complete(status, value): counts the completion, posts RESULT, sets ERR for a code other than OK, back to Idle, as one
update (R272). `raise S` is `complete s S 0`. Nothing is saved and nothing is rolled back (R277). -/
def complete (s : State) (st : Status) (value : Byte) : State :=
  { s with
    doneCount := s.doneCount + 1
    result := packResult (s.doneCount + 1) value st
    err := s.err || decide (st ≠ .ok)
    phase := .idle }

/-- What follows an error: none of the state of the failed descriptor is restored, the engine is Idle and takes the next descriptor
(R277, R278). There is no return operation; a completion is the return. -/
def raise (s : State) (st : Status) : State := complete s st 0

/-! ### The Transport port -/

/-- TxCmd and TxData have an answer, OK or BUS_ERROR; TxReset and TxDelay have none and always complete (R52). -/
def hasAnswer : TxRequest → Bool
  | .cmd _ | .data _ => true
  | .reset _ | .delay _ => false

/-- The reset line after a request: the value last passed to TxReset (R53). -/
def lineAfter (line : Bool) : TxRequest → Bool
  | .reset active => active
  | .cmd _ | .data _ | .delay _ => line

/-- Issues one request to the Transport. -/
def issue (s : State) (r : TxRequest) : State :=
  { s with txLog := s.txLog ++ [r], resetLine := lineAfter s.resetLine r }

/-- A BUS_ERROR ends the descriptor at once; INIT's also leaves Uninitialized (R224, R226, R272). -/
def busFailure (failTo : Option CtrlState) (s : State) : State :=
  raise { s with ctrlState := failTo.getD s.ctrlState } .busError

/-- How far a request gets within the step (R52). TxCmd and TxData take the Transport's next answer, if one is ready. TxReset
completes at once. TxDelay completes too, in this step or, where the step ends inside the delay, in the engine's next one (log 7). -/
def finish (r : TxRequest) (s : State) : TxEnd × State :=
  match r with
  | .cmd _ | .data _ =>
    match s.txAnswers with
    | [] => (.pending, s)
    | .ok :: answers => (.done, { s with txAnswers := answers })
    | .busError :: answers => (.failed, { s with txAnswers := answers })
  | .reset _ => (.done, s)
  | .delay _ =>
    match s.pauses with
    | [] => (.done, s)
    | false :: pauses => (.done, { s with pauses := pauses })
    | true :: pauses => (.pending, { s with pauses := pauses })

/-- Runs what is left of a controller descriptor (R273): while a request has not finished, the engine stays in Exec. -/
def runProg (failTo : Option CtrlState) : List Micro → State → State
  | [], s => complete s .ok 0
  | .setCtrl c :: rest, s => runProg failTo rest { s with ctrlState := c }
  | .clearFb :: rest, s => runProg failTo rest (fillFb s 0)
  | .tx r :: rest, s =>
    match finish r (issue s r) with
    | (.done, t) => runProg failTo rest t
    | (.failed, t) => busFailure failTo t
    | (.pending, t) => { t with phase := .exec { awaiting := r, rest := rest, failTo := failTo } }

/-- The Transport answers the TxCmd or TxData a descriptor waits for (R52, R273). -/
def takeAnswer (w : Wait) (a : TxAnswer) (s : State) : State :=
  match a with
  | .ok => runProg w.failTo w.rest s
  | .busError => busFailure w.failTo s

/-- SendSeq(bs): every byte by its own TxCmd (R221). -/
def sendSeq (bs : List Byte) : List Micro := bs.map fun b => .tx (.cmd b)

/-- The controller operations other than INIT and RESET complete NOT_INIT while Uninitialized, before any request (R275). -/
def whenInitialized (s : State) (k : State → State) : State :=
  if s.ctrlState = .uninitialized then raise s .notInit else k s

end Sys2Proof.Machine
end

