-- ==== Sys2Proof/Machine/Controller.lean ====
section
/-! DEFINITION. The DisplayController operations (43_controller.md): each is a program of Transport requests and state changes
that `runProg` carries out. -/
namespace Sys2Proof.Machine

/-- INIT_BYTES, the fourteen steps of INIT_SEQ joined (R222). -/
def initBytes (cfg : Config) : List Byte :=
  let t := cfg.cmdTab
  t.displayOff ++ t.clockDiv ++ t.multiplex ++ t.displayOffset ++ t.startLine ++ t.chargePump ++ t.addrMode
    ++ (t.segRemap ++ t.comScan) ++ t.comPins ++ entryBytes t.contrast cfg.contrastDefault.toNat 0 ++ t.precharge
    ++ t.vcomDeselect ++ t.normal ++ t.displayOn

/-- FlushPages() of a framebuffer: for each page in ascending order the page and column commands, then the page's W bytes
as one TxData (R230). The bytes are those at the start of the operation. X_OFFSET is in the COLUMN bytes, as the instance's CMDTAB gives
them (DESIGN CHOICE, log 26). -/
def flushPages (cfg : Config) (m : Memory) : List Micro :=
  (List.range cfg.npages).flatMap fun p =>
    sendSeq (entryBytes cfg.cmdTab.page p 0 ++ cfg.cmdTab.column) ++ [.tx (.data (pageBytes cfg m p))]

/-- INIT after its first line: the sequence, InitOn, the clear, the flush of the cleared FB (R224, log 25). -/
def initProg (cfg : Config) : List Micro :=
  sendSeq (initBytes cfg) ++ [.setCtrl .initOn, .clearFb] ++ flushPages cfg []

/-- INIT: any BUS_ERROR leaves Uninitialized (R224, R226). -/
def execInit (s : State) : Outcome :=
  .next (runProg (some .uninitialized) (initProg s.cfg) { s with ctrlState := .uninitialized })

/-- FLUSH (R231). -/
def execFlush (s : State) : Outcome := .next (whenInitialized s (runProg none (flushPages s.cfg s.fb)))

/-- SETCONTRAST (R240). -/
def execSetContrast (value : Byte) (s : State) : Outcome :=
  .next (whenInitialized s (runProg none (sendSeq (entryBytes s.cfg.cmdTab.contrast value.toNat 0))))

/-- SETDISPLAYON: ctrlState changes only on success (R241). -/
def execSetDisplayOn (on : Bool) (s : State) : Outcome :=
  .next (whenInitialized s (runProg none
    (sendSeq (if on then s.cfg.cmdTab.displayOn else s.cfg.cmdTab.displayOff)
      ++ [.setCtrl (if on then .initOn else .initOff)])))

/-- INVERTDISPLAY (R242). -/
def execInvertDisplay (on : Bool) (s : State) : Outcome :=
  .next (whenInitialized s (runProg none
    (sendSeq (if on then s.cfg.cmdTab.inverted else s.cfg.cmdTab.normal))))

/-- DoScroll(CFG, s, e): the configuration bytes, then activate (R245). -/
def doScroll (entry : CmdEntry) (startRow endRow : Byte) (s : State) : State :=
  whenInitialized s (runProg none
    (sendSeq (entryBytes entry startRow.toNat endRow.toNat) ++ sendSeq s.cfg.cmdTab.scrollActivate))

/-- SCROLLR (R246). -/
def execScrollR (startRow endRow : Byte) (s : State) : Outcome :=
  .next (doScroll s.cfg.cmdTab.scrollR startRow endRow s)

/-- SCROLLL (R247). -/
def execScrollL (startRow endRow : Byte) (s : State) : Outcome :=
  .next (doScroll s.cfg.cmdTab.scrollL startRow endRow s)

/-- SCROLLDR (R248). -/
def execScrollDR (startRow endRow : Byte) (s : State) : Outcome :=
  .next (doScroll s.cfg.cmdTab.scrollDR startRow endRow s)

/-- SCROLLDL (R249). -/
def execScrollDL (startRow endRow : Byte) (s : State) : Outcome :=
  .next (doScroll s.cfg.cmdTab.scrollDL startRow endRow s)

/-- STOPSCROLL (R250). -/
def execStopScroll (s : State) : Outcome :=
  .next (whenInitialized s (runProg none (sendSeq s.cfg.cmdTab.scrollDeactivate)))

/-- The program of RESET (R252). -/
def resetProg (cfg : Config) : List Micro :=
  [.tx (.reset true), .tx (.delay cfg.resetHoldMs), .tx (.reset false), .tx (.delay cfg.resetSettleMs),
   .setCtrl .uninitialized]

/-- RESET: legal in every ctrlState, never fails (R252). -/
def execReset (s : State) : Outcome := .next (runProg none (resetProg s.cfg) s)

end Sys2Proof.Machine
end

