-- ==== Sys2Proof/Machine/FrameBuffer.lean ====
section
/-! DEFINITION. The FrameBuffer operations (40_framebuffer.md). -/
namespace Sys2Proof.Machine

/-- SETPIXEL (R142). -/
def execSetPixel (c : Colour) (x y : Half) (s : State) : Outcome :=
  .next (complete (paint s [(coord x, coord y)] c) .ok 0)

/-- The byte FILL writes everywhere (R143). -/
def fillByte : Colour → Byte
  | .white => 0xFF
  | .black => 0x00

/-- FILL (R143). -/
def execFill (c : Colour) (s : State) : Outcome := .next (complete (fillFb s (fillByte c)) .ok 0)

/-- LOADRAW: SIZE_MISMATCH unless the byte count is FBSIZE (R144). -/
def execLoadRaw (bytes : List Byte) (s : State) : Outcome :=
  .next (if bytes.length ≠ s.cfg.fbSize then raise s .sizeMismatch else complete (loadFb s bytes) .ok 0)

/-- SETCURSOR: stored as given, with no range check (R146). -/
def execSetCursor (x y : Half) (s : State) : Outcome :=
  .next (complete { s with cursorX := x, cursorY := y } .ok 0)

end Sys2Proof.Machine
end

