-- ==== Sys2Proof/Machine/Rasterizer.lean ====
section
/-! DEFINITION. The Rasterizer operations (41_rasterizer.md): each computes a point list in ℤ and paints it (R160, R161). -/
namespace Sys2Proof.Machine

/-! ### Lines -/

/-- The walk of R162 along the major axis: (major, minor) points, the minor coordinate moved when D > 0. `dM`, `dm` are the
absolute differences, `sM`, `sm` the step directions, `n` the points still to visit. -/
def lineWalk (dM dm sM sm : Int) : Nat → Int → Int → Int → List Point
  | 0, _, _, _ => []
  | n + 1, D, M, m =>
    (M, m) ::
      (if 0 < D then lineWalk dM dm sM sm n (D - 2 * dM + 2 * dm) (M + sM) (m + sm)
       else lineWalk dM dm sM sm n (D + 2 * dm) (M + sM) m)

/-- LinePts(x0, y0, x1, y1), the integer Bresenham pixel list (R162). -/
def linePts (x0 y0 x1 y1 : Int) : List Point :=
  let dx := (x1 - x0).natAbs
  let dy := (y1 - y0).natAbs
  let sx := (x1 - x0).sign
  let sy := (y1 - y0).sign
  if dy ≤ dx then lineWalk dx dy sx sy (dx + 1) (2 * dy - dx) x0 y0
  else (lineWalk dy dx sy sx (dy + 1) (2 * dx - dy) y0 x0).map Prod.swap

/-- LINE (R163). -/
def execLine (c : Colour) (x0 y0 x1 y1 : Half) (s : State) : Outcome :=
  .next (complete (paint s (linePts (coord x0) (coord y0) (coord x1) (coord y1)) c) .ok 0)

/-! ### Rectangles -/

/-- The outline's four lines between normalised corners (R165). -/
def rectPts (x0 y0 x1 y1 : Int) : List Point :=
  let xa := min x0 x1
  let ya := min y0 y1
  let xb := max x0 x1
  let yb := max y0 y1
  linePts xa ya xb ya ++ linePts xb ya xb yb ++ linePts xb yb xa yb ++ linePts xa yb xa ya

/-- The rows between normalised corners, one full line each (R167). -/
def fillRectPts (x0 y0 x1 y1 : Int) : List Point :=
  let xa := min x0 x1
  let ya := min y0 y1
  let xb := max x0 x1
  let yb := max y0 y1
  (List.range ((yb - ya).toNat + 1)).flatMap fun k => linePts xa (ya + (k : Int)) xb (ya + (k : Int))

/-- RECT (R165). -/
def execRect (c : Colour) (x0 y0 x1 y1 : Half) (s : State) : Outcome :=
  .next (complete (paint s (rectPts (coord x0) (coord y0) (coord x1) (coord y1)) c) .ok 0)

/-- FILLRECT (R167). -/
def execFillRect (c : Colour) (x0 y0 x1 y1 : Half) (s : State) : Outcome :=
  .next (complete (paint s (fillRectPts (coord x0) (coord y0) (coord x1) (coord y1)) c) .ok 0)

/-! ### Circles -/

/-- The loop of R170, at most `n` turns of it. -/
def circleLoop : Nat → Int → Int → Int → List Point
  | 0, _, _, _ => []
  | n + 1, x, y, d =>
    if x ≤ y then
      (x, y) ::
        (if d < 0 then circleLoop n (x + 1) y (d + 2 * (x + 1) + 1)
         else circleLoop n (x + 1) (y - 1) (d + 2 * (x + 1 - (y - 1)) + 1))
    else []

/-- CircleSteps(r), the octant points of the midpoint circle (R170). x rises by 1 a turn and y never rises, so r + 1
turns are enough. -/
def circleSteps (r : Nat) : List Point := circleLoop (r + 1) 0 r (1 - r)

/-- The eight images of an octant point around the centre (R171). -/
def octants (cx cy : Int) (p : Point) : List Point :=
  [(cx + p.1, cy + p.2), (cx - p.1, cy + p.2), (cx + p.1, cy - p.2), (cx - p.1, cy - p.2),
   (cx + p.2, cy + p.1), (cx - p.2, cy + p.1), (cx + p.2, cy - p.1), (cx - p.2, cy - p.1)]

/-- The points of CIRCLE (R171). -/
def circlePts (cx cy : Int) (r : Nat) : List Point := (circleSteps r).flatMap (octants cx cy)

/-- The four horizontal spans of an octant point (R173). -/
def spans (cx cy : Int) (p : Point) : List Point :=
  linePts (cx - p.1) (cy + p.2) (cx + p.1) (cy + p.2) ++ linePts (cx - p.1) (cy - p.2) (cx + p.1) (cy - p.2)
    ++ linePts (cx - p.2) (cy + p.1) (cx + p.2) (cy + p.1) ++ linePts (cx - p.2) (cy - p.1) (cx + p.2) (cy - p.1)

/-- The points of FILLCIRCLE (R173). -/
def fillCirclePts (cx cy : Int) (r : Nat) : List Point := (circleSteps r).flatMap (spans cx cy)

/-- CIRCLE (R171). -/
def execCircle (c : Colour) (cx cy r : Half) (s : State) : Outcome :=
  .next (complete (paint s (circlePts (coord cx) (coord cy) r.toNat) c) .ok 0)

/-- FILLCIRCLE (R173). -/
def execFillCircle (c : Colour) (cx cy r : Half) (s : State) : Outcome :=
  .next (complete (paint s (fillCirclePts (coord cx) (coord cy) r.toNat) c) .ok 0)

/-! ### Arcs -/

/-- S[0..90], the base values of R180. -/
def sineBase : List Nat :=
  [0, 286, 572, 857, 1143, 1428, 1713, 1997, 2280, 2563]
  ++ [2845, 3126, 3406, 3686, 3964, 4240, 4516, 4790, 5063, 5334]
  ++ [5604, 5872, 6138, 6402, 6664, 6924, 7182, 7438, 7692, 7943]
  ++ [8192, 8438, 8682, 8923, 9162, 9397, 9630, 9860, 10087, 10311]
  ++ [10531, 10749, 10963, 11174, 11381, 11585, 11786, 11982, 12176, 12365]
  ++ [12551, 12733, 12911, 13085, 13255, 13421, 13583, 13741, 13894, 14044]
  ++ [14189, 14330, 14466, 14598, 14726, 14849, 14968, 15082, 15191, 15296]
  ++ [15396, 15491, 15582, 15668, 15749, 15826, 15897, 15964, 16026, 16083]
  ++ [16135, 16182, 16225, 16262, 16294, 16322, 16344, 16362, 16374, 16382]
  ++ [16384]

/-- S[k] (R180). -/
def sineAt (k : Nat) : Int := (sineBase.getD k 0 : Nat)

/-- SINQ(θ), Q14 (R180). -/
def sinq (θ : Nat) : Int :=
  let t := θ % 360
  if t ≤ 90 then sineAt t
  else if t ≤ 180 then sineAt (180 - t)
  else if t ≤ 270 then -sineAt (t - 180)
  else -sineAt (360 - t)

/-- COSQ(θ) = SINQ(θ + 90) (R181). -/
def cosq (θ : Nat) : Int := sinq (θ + 90)

/-- A Q14 product rounded half away from zero (R181). -/
def rnd14 (v : Int) : Int := if 0 ≤ v then (v + 8192) / 16384 else -((-v + 8192) / 16384)

/-- ArcAngles(start, sweep) for an angular step (R182): start + k·step while k·step ≤ sweep, then the end if the step does
not divide the sweep. -/
def arcAngles (step start sweep : Nat) : List Nat :=
  ((List.range (sweep / step + 1)).map fun k => start + k * step)
    ++ (if sweep % step ≠ 0 then [start + sweep] else [])

/-- ArcPoint(cx, cy, r, θ) (R183). -/
def arcPoint (cx cy : Int) (r θ : Nat) : Point := (cx + rnd14 (r * cosq θ), cy + rnd14 (r * sinq θ))

/-- The points of ARC (R185). -/
def arcPts (step : Nat) (cx cy : Int) (r start sweep : Nat) : List Point :=
  (arcAngles step start sweep).map (arcPoint cx cy r)

/-- The points of ARCRL: the arc, then the line from the centre to the end of the walk (R186). -/
def arcRLPts (step : Nat) (cx cy : Int) (r start sweep : Nat) : List Point :=
  let e := arcPoint cx cy r (start + sweep)
  arcPts step cx cy r start sweep ++ linePts cx cy e.1 e.2

/-- ARC (R185). -/
def execArc (c : Colour) (cx cy r start sweep : Half) (s : State) : Outcome :=
  .next (complete
    (paint s (arcPts s.cfg.arcStep (coord cx) (coord cy) r.toNat start.toNat sweep.toNat) c) .ok 0)

/-- ARCRL (R186). -/
def execArcRL (c : Colour) (cx cy r start sweep : Half) (s : State) : Outcome :=
  .next (complete
    (paint s (arcRLPts s.cfg.arcStep (coord cx) (coord cy) r.toNat start.toNat sweep.toNat) c) .ok 0)

/-! ### Polylines and bitmaps -/

/-- A line between each two consecutive vertices; the figure is open (R190). -/
def polylinePts : List Vertex → List Point
  | v :: w :: vs => linePts (coord v.x) (coord v.y) (coord w.x) (coord w.y) ++ polylinePts (w :: vs)
  | [_] => []
  | [] => []

/-- POLYLINE (R190). -/
def execPolyline (c : Colour) (vs : List Vertex) (s : State) : Outcome :=
  .next (complete (paint s (polylinePts vs) c) .ok 0)

/-- BITMAP: a transparent blit, set source bits only (R193). -/
def execBitmap (c : Colour) (x y w h : Half) (bytes : List Byte) (s : State) : Outcome :=
  .next (complete (paint s (bitmapPoints (coord x) (coord y) w.toNat h.toNat bytes) c) .ok 0)

end Sys2Proof.Machine
end

