-- ==== Sys2Proof/Machine/Text.lean ====
section
/-! DEFINITION. The TextRenderer operations (42_text.md). -/
namespace Sys2Proof.Machine

/-- PutGlyph(ch, f, c): the state after the glyph is written, none where it is rejected (R202). Only the width is checked. -/
def putGlyph (c : Colour) (font ch : Byte) (s : State) : Option State :=
  let g := glyphFor s.cfg font ch
  if s.cfg.w < s.cursorX.toNat + g.gw.toNat then none
  else
    some { paint s (bitmapPoints (coord s.cursorX) (coord s.cursorY) g.gw.toNat g.gh.toNat g.gb) c with
      cursorX := BitVec.ofNat 16 (s.cursorX.toNat + g.gw.toNat) }

/-- WRITECHAR: GLYPH_OVERFLOW with the rejected character, else OK (R203). -/
def execWriteChar (c : Colour) (font ch : Byte) (s : State) : Outcome :=
  .next (match putGlyph c font ch s with
    | none => complete s .glyphOverflow ch
    | some t => complete t .ok 0)

/-- The loop of WRITESTRING: it stops at the first rejected character (R205). -/
def writeChars (c : Colour) (font : Byte) : List Byte → State → State
  | [], s => complete s .ok 0
  | ch :: rest, s =>
    match putGlyph c font ch s with
    | none => complete s .glyphOverflow ch
    | some t => writeChars c font rest t

/-- WRITESTRING (R205). -/
def execWriteString (c : Colour) (font : Byte) (chars : List Byte) (s : State) : Outcome :=
  .next (writeChars c font chars s)

end Sys2Proof.Machine
end

