-- ==== Sys2Proof/Machine/Dispatch.lean ====
section
/-! DEFINITION. One arm per operation of the opcode map (R107). -/
namespace Sys2Proof.Machine

def exec (i : Instr) (s : State) : Host.Outcome State Fault Refusal :=
  match i with
  | .setPixel c x y => Sys2Proof.Machine.execSetPixel c x y s
  | .fill c => Sys2Proof.Machine.execFill c s
  | .loadRaw bytes => Sys2Proof.Machine.execLoadRaw bytes s
  | .setCursor x y => Sys2Proof.Machine.execSetCursor x y s
  | .line c x0 y0 x1 y1 => Sys2Proof.Machine.execLine c x0 y0 x1 y1 s
  | .rect c x0 y0 x1 y1 => Sys2Proof.Machine.execRect c x0 y0 x1 y1 s
  | .fillRect c x0 y0 x1 y1 => Sys2Proof.Machine.execFillRect c x0 y0 x1 y1 s
  | .circle c cx cy r => Sys2Proof.Machine.execCircle c cx cy r s
  | .fillCircle c cx cy r => Sys2Proof.Machine.execFillCircle c cx cy r s
  | .arc c cx cy r start sweep => Sys2Proof.Machine.execArc c cx cy r start sweep s
  | .arcRL c cx cy r start sweep => Sys2Proof.Machine.execArcRL c cx cy r start sweep s
  | .polyline c vs => Sys2Proof.Machine.execPolyline c vs s
  | .bitmap c x y w h bytes => Sys2Proof.Machine.execBitmap c x y w h bytes s
  | .writeChar c font ch => Sys2Proof.Machine.execWriteChar c font ch s
  | .writeString c font chars => Sys2Proof.Machine.execWriteString c font chars s
  | .init => Sys2Proof.Machine.execInit s
  | .flush => Sys2Proof.Machine.execFlush s
  | .setContrast value => Sys2Proof.Machine.execSetContrast value s
  | .setDisplayOn on => Sys2Proof.Machine.execSetDisplayOn on s
  | .invertDisplay on => Sys2Proof.Machine.execInvertDisplay on s
  | .scrollR startRow endRow => Sys2Proof.Machine.execScrollR startRow endRow s
  | .scrollL startRow endRow => Sys2Proof.Machine.execScrollL startRow endRow s
  | .scrollDR startRow endRow => Sys2Proof.Machine.execScrollDR startRow endRow s
  | .scrollDL startRow endRow => Sys2Proof.Machine.execScrollDL startRow endRow s
  | .stopScroll => Sys2Proof.Machine.execStopScroll s
  | .reset => Sys2Proof.Machine.execReset s

end Sys2Proof.Machine
end

