-- ==== Sys2Proof/Machine/HostPort.lean ====
section
/-! DEFINITION. The host's accesses to the aperture (20_memory.md R70 to R79): which are legal, what a read returns, what a
write does. -/
namespace Sys2Proof.Machine

/-- The byte offset in the aperture of a bus address, none outside its 128 KiB (R70). -/
def apertureOffset (cfg : Config) (addr : Nat) : Option Nat :=
  if cfg.base ≤ addr ∧ addr < cfg.base + 0x20000 then some (addr - cfg.base) else none

/-- The bytes of an access. -/
def widthBytes : AccessWidth → Nat
  | .w8 => 1
  | .w16 => 2
  | .w32 => 4

/-- R73: registers take aligned 32-bit accesses, FBWIN naturally aligned ones of any width. For FBWIN writes, which are ignored,
see log 13. -/
def legalAccess (width : AccessWidth) (off : Nat) : Bool :=
  if off < 0x10000 then decide (width = .w32) && decide (off % 4 = 0) else decide (off % widthBytes width = 0)

/-- FBWIN byte i: FB[i], and 0 from FBSIZE on (R72). -/
def windowByte (s : State) (i : Nat) : Byte := if i < s.cfg.fbSize then Memory.read s.fb i else 0

/-- An exact FBWIN read of byte offset i, little-endian, zero-extended (R72, R79). -/
def windowRead (s : State) (width : AccessWidth) (i : Nat) : Word :=
  match width with
  | .w8 => lanes (windowByte s i) 0 0 0
  | .w16 => lanes (windowByte s i) (windowByte s (i + 1)) 0 0
  | .w32 => lanes (windowByte s i) (windowByte s (i + 1)) (windowByte s (i + 2)) (windowByte s (i + 3))

/-- A free draw cut to the width of the read (R310). -/
def freeDraw (s : State) (width : AccessWidth) : Word :=
  let v := Config.freeRead s.draws
  match width with
  | .w8 => lanes (byteLane v 0) 0 0 0
  | .w16 => lanes (byteLane v 0) (byteLane v 1) 0 0
  | .w32 => v

/-- The register at an offset below 0x10000; CMD and the reserved offsets read 0 (R71). -/
def registerRead (s : State) (off : Nat) : Word :=
  if off = 0x04 then statusReg s
  else if off = 0x08 then s.result
  else if off = 0x0C then cursorReg s
  else if off = 0x10 then geometryReg s
  else if off = 0x14 then configReg s
  else 0

/-- The offsets whose reads are not exact while BUSY = 1: FBWIN and CURSOR (R78, R310). -/
def freeWhileBusy (off : Nat) : Bool := decide (off = 0x0C) || decide (0x10000 ≤ off)

/-- What a legal read returns. -/
def readValue (s : State) (width : AccessWidth) (off : Nat) : Word :=
  if isBusy s && freeWhileBusy off then freeDraw s width
  else if off < 0x10000 then registerRead s off
  else windowRead s width (off - 0x10000)

/-- A legal read: the reply is recorded, a free draw is counted, nothing else changes (R77). -/
def hostRead (s : State) (width : AccessWidth) (addr off : Nat) : State :=
  { s with
    reads := s.reads ++ [{ width := width, addr := addr, value := readValue s width off }]
    draws := if isBusy s && freeWhileBusy off then s.draws + 1 else s.draws }

/-- A word written to CMD: appended to Q, or held on the bus while Q is full (R74). -/
def pushCmd (s : State) (v : Word) : State :=
  if s.queue.length < s.cfg.cmdqDepth then { s with queue := s.queue ++ [v] } else { s with held := some v }

/-- A legal write: CMD, STATUS, or ignored (R71, R72, R77). -/
def hostWrite (s : State) (off : Nat) (v : Word) : State :=
  if off = 0x00 then pushCmd s v
  else if off = 0x04 then { s with err := clearErr v s.err }
  else s

/-- One host access: a host access error stops the model (R75, R279). -/
def hostAccess (a : HostAccess) (s : State) : Outcome :=
  match a with
  | .read width addr =>
    match apertureOffset s.cfg addr with
    | some off => if legalAccess width off then .next (hostRead s width addr off) else .fault .hostAccessError
    | none => .fault .hostAccessError
  | .write width addr v =>
    match apertureOffset s.cfg addr with
    | some off => if legalAccess width off then .next (hostWrite s off v) else .fault .hostAccessError
    | none => .fault .hostAccessError

/-- The host's turn. A held CMD write is retried first, and the host has no other step until it is taken (R74). -/
def hostTurn (s : State) : Outcome :=
  match s.held with
  | some v => .next (pushCmd { s with held := none } v)
  | none =>
    match s.hostOps with
    | [] => .next s
    | a :: ops => hostAccess a { s with hostOps := ops }

end Sys2Proof.Machine
end

