-- ==== Sys2Proof/Machine/Engine.lean ====
section
/-! DEFINITION. The engine's step relation (R273), the Transport's turn, block reset (R300), and one turn of any agent. -/
namespace Sys2Proof.Machine

/-- Idle with a header at the head of Q (R273): an oversize descriptor is entered into Discard (R115); an incomplete one waits (R111);
else all 1 + N words are removed and the descriptor runs, or completes ILLEGAL (R110). -/
def takeDescriptor (h : Word) (ws : List Word) (s : State) : Outcome :=
  if s.cfg.cmdqDepth < 1 + nField h then .next { s with queue := ws, phase := .discard (nField h) }
  else if ws.length < nField h then .next s
  else
    match decode (h :: ws) with
    | .ok (i, rest) => exec i { s with queue := rest }
    | .error _ => .next (raise { s with queue := ws.drop (nField h) } .illegal)

/-- Discard(k): one payload word is dropped; the last one completes ILLEGAL (R115, R273). -/
def discardWord (k : Nat) (ws : List Word) (s : State) : State :=
  if k ≤ 1 then raise { s with queue := ws } .illegal else { s with queue := ws, phase := .discard (k - 1) }

/-- Exec (R273): an answer that is ready is taken, a TxDelay completes by itself (R52); with no answer the engine waits. -/
def resume (w : Wait) (s : State) : State :=
  if hasAnswer w.awaiting = true then
    match s.txAnswers with
    | [] => s
    | a :: answers => takeAnswer w a { s with txAnswers := answers }
  else runProg w.failTo w.rest s

/-- One engine step. An engine that has nothing to do, or waits for a word or an answer, leaves the state as it is (log 20). -/
def engineTurn (s : State) : Outcome :=
  match s.phase with
  | .idle =>
    match s.queue with
    | [] => .next s
    | h :: ws => takeDescriptor h ws s
  | .discard k =>
    match s.queue with
    | [] => .next s
    | _ :: ws => .next (discardWord k ws s)
  | .exec w => .next (resume w s)

/-- The Transport answers the request the engine waits for; with none awaited the answer is ignored (R52, R300). -/
def answerTurn (a : TxAnswer) (s : State) : State :=
  match s.phase with
  | .exec w => if hasAnswer w.awaiting = true then takeAnswer w a s else s
  | .idle => s
  | .discard _ => s

/-- Block reset: every piece of the block's state at its value of R54, the configuration unchanged, no request sent, a held
write lost (R300). What the agents around the block hold stays. -/
def blockReset (s : State) : State :=
  { State.reset with
    cfg := s.cfg
    txAnswers := s.txAnswers
    pauses := s.pauses
    txLog := s.txLog
    schedule := s.schedule
    hostOps := s.hostOps
    reads := s.reads
    draws := s.draws }

/-- One turn. In a cycle both share, the host's access comes first, so that a completion that sets ERR wins over a host
write that clears it (R48, log 14). -/
def takeTurn (t : Turn) (s : State) : Outcome :=
  match t with
  | .engine => engineTurn s
  | .host => hostTurn s
  | .both =>
    match hostTurn s with
    | .next s' => engineTurn s'
    | .fault f => .fault f
    | .refused r => .refused r
  | .answer a => .next (answerTurn a s)
  | .blockReset => .next (blockReset s)

/-- Q holding exactly the words of a table word, the engine Idle and next to move: what a host's CMD writes leave (log 16). -/
def withQueuedWords (s : State) (ws : List Word) : State :=
  { s with queue := ws.take s.cfg.cmdqDepth, phase := .idle, schedule := [] }

end Sys2Proof.Machine
end

