-- ==== Sys2Proof/Machine/Step.lean ====
section
/-! DEFINITION. The step: the agent the schedule names moves, the engine where it names none (R273, log 9). -/
namespace Sys2Proof.Machine

/-- One step of the machine: a next state or a fault; a refusal only where an instruction is not modelled. -/
def step (s : State) : Host.Outcome State Fault Refusal :=
  match s.schedule with
  | [] => engineTurn s
  | t :: ts => takeTurn t { s with schedule := ts }

/-- The state whose next step takes and runs the instruction of a table word (log 16). -/
def State.withFetchWord (s : State) (nbits w : Nat) : State := withQueuedWords s (tableWords nbits w)

end Sys2Proof.Machine
end

