-- ==== Sys2Proof/Safety.lean ====
section
/-! DEFINITION. The invariant of the machine and the words the statements are written in: what a completion leaves, what a
descriptor leaves unchanged, which pixels it paints, which requests it sends. -/
namespace Sys2Proof.Machine

/-! ### The invariant -/

/-- FB is canonical and holds no byte at or above FBSIZE (R30). -/
def FbOk (s : State) : Prop := Memory.wf s.fb = true ∧ ∀ c ∈ s.fb, c.1 < s.cfg.fbSize

/-- Q holds at most CMDQ_DEPTH words (R43). -/
def QueueOk (s : State) : Prop := s.queue.length ≤ s.cfg.cmdqDepth

/-- RESULT.DONE is DONE_COUNT, RESULT.CODE is a code of R270, RESULT.VALUE is 0 for every code but GLYPH_OVERFLOW (R46). -/
def ResultOk (s : State) : Prop :=
  resultDone s.result = s.doneCount ∧ (resultCode s.result).toNat ≤ 5
    ∧ (resultCode s.result ≠ statusCode .glyphOverflow → resultValue s.result = 0)

/-- Running the rest of a descriptor, with the reset line at `line`, ends with the line released, whichever request fails. -/
def lineSafe : Bool → List Micro → Prop
  | line, [] => line = false
  | _, .tx (.reset active) :: rest => lineSafe active rest
  | line, .tx (.delay _) :: rest => lineSafe line rest
  | line, .tx (.cmd _) :: rest => line = false ∧ lineSafe line rest
  | line, .tx (.data _) :: rest => line = false ∧ lineSafe line rest
  | line, .setCtrl _ :: rest => lineSafe line rest
  | line, .clearFb :: rest => lineSafe line rest

/-- The reset line is asserted only by a RESET in Exec (R252: "1 while held"); Discard(k) has 1 ≤ k ≤ 65535 (R44); a descriptor
waits for an answer only when none is ready, and never in a TxReset (R52). -/
def PhaseOk (s : State) : Prop :=
  match s.phase with
  | .idle => s.resetLine = false
  | .discard k => s.resetLine = false ∧ 1 ≤ k ∧ k ≤ 65535
  | .exec w => (hasAnswer w.awaiting = true → s.txAnswers = [] ∧ s.resetLine = false)
      ∧ (∀ active, w.awaiting ≠ .reset active) ∧ lineSafe s.resetLine w.rest

/-- The invariant every step keeps. -/
structure Inv (s : State) : Prop where
  fb : FbOk s
  queue : QueueOk s
  result : ResultOk s
  phase : PhaseOk s

/-! ### What a descriptor leaves -/

/-- `t` is Idle after one completion with this status and value, counted from `s` (R272). -/
def Completed (s t : State) (st : Status) (value : Byte) : Prop :=
  t.phase = .idle ∧ t.doneCount = s.doneCount + 1
    ∧ resultCode t.result = statusCode st ∧ resultValue t.result = value ∧ resultDone t.result = s.doneCount + 1
    ∧ t.err = (s.err || decide (st ≠ .ok))

/-- `t` waits in Exec for the Transport and nothing was posted since `s` (R52, R273). -/
def Waiting (s t : State) : Prop :=
  (∃ w, t.phase = .exec w) ∧ t.doneCount = s.doneCount ∧ t.result = s.result ∧ t.err = s.err

/-- Every byte of memory reads as before. -/
def SameFb (s t : State) : Prop := ∀ a, Memory.read t.fb a = Memory.read s.fb a

/-- The text cursor is unchanged. -/
def SameCursor (s t : State) : Prop := t.cursorX = s.cursorX ∧ t.cursorY = s.cursorY

/-- The controller state and the reset line are unchanged, no request was sent and no answer or pause taken. -/
def SameController (s t : State) : Prop :=
  t.ctrlState = s.ctrlState ∧ t.resetLine = s.resetLine ∧ t.txLog = s.txLog ∧ t.txAnswers = s.txAnswers
    ∧ t.pauses = s.pauses

/-- What no descriptor touches: the configuration, Q after its own words, the bus and the agents around the block. -/
def SameHost (s t : State) : Prop :=
  t.cfg = s.cfg ∧ t.queue = s.queue ∧ t.held = s.held ∧ t.schedule = s.schedule ∧ t.hostOps = s.hostOps
    ∧ t.reads = s.reads ∧ t.draws = s.draws

/-- On the screen exactly the pixels of `S` have become `c` (R141); no byte at or above FBSIZE changed. -/
def Painted (s t : State) (c : Colour) (S : Nat → Nat → Prop) : Prop :=
  (∀ x y, x < s.cfg.w → y < s.cfg.h →
      (S x y → getPx t x y = c.bit) ∧ (¬ S x y → getPx t x y = getPx s x y))
    ∧ ∀ a, s.cfg.fbSize ≤ a → Memory.read t.fb a = Memory.read s.fb a

/-- A drawing operation's whole effect: OK, those pixels, nothing else (R160). -/
def DrawsExactly (i : Instr) (s : State) (c : Colour) (S : Nat → Nat → Prop) : Prop :=
  ∃ t, exec i s = .next t ∧ Completed s t .ok 0 ∧ Painted s t c S
    ∧ SameCursor s t ∧ SameController s t ∧ SameHost s t

/-- The pixel (x, y) as a point of ℤ. -/
def px (x y : Nat) : Point := ((x : Int), (y : Int))

/-! ### Requests -/

/-- The requests that send command bytes one by one (R221). -/
def cmds (bs : List Byte) : List TxRequest := bs.map TxRequest.cmd

/-- The requests of FlushPages over a framebuffer (R230). -/
def flushRequests (cfg : Config) (m : Memory) : List TxRequest :=
  (List.range cfg.npages).flatMap fun p =>
    cmds (entryBytes cfg.cmdTab.page p 0) ++ cmds cfg.cmdTab.column
      ++ [.data ((List.range cfg.w).map fun x => Memory.read m (p * cfg.w + x))]

/-- The requests of a whole INIT: INIT_BYTES, then a flush of zeros (R224). -/
def initRequests (cfg : Config) : List TxRequest :=
  cmds (initBytes cfg) ++ (List.range cfg.npages).flatMap fun p =>
    cmds (entryBytes cfg.cmdTab.page p 0) ++ cmds cfg.cmdTab.column ++ [.data (List.replicate cfg.w 0)]

/-- The Transport answers OK to the next n requests. -/
def okAnswers (n : Nat) : List TxAnswer := List.replicate n .ok

/-- The DisplayController operations other than INIT, FLUSH and RESET, with the command bytes each sends (R240 to R242, R246 to
R250). -/
def commandBytes (cfg : Config) : Instr → Option (List Byte)
  | .setContrast v => some (entryBytes cfg.cmdTab.contrast v.toNat 0)
  | .setDisplayOn on => some (if on then cfg.cmdTab.displayOn else cfg.cmdTab.displayOff)
  | .invertDisplay on => some (if on then cfg.cmdTab.inverted else cfg.cmdTab.normal)
  | .scrollR a b => some (entryBytes cfg.cmdTab.scrollR a.toNat b.toNat ++ cfg.cmdTab.scrollActivate)
  | .scrollL a b => some (entryBytes cfg.cmdTab.scrollL a.toNat b.toNat ++ cfg.cmdTab.scrollActivate)
  | .scrollDR a b => some (entryBytes cfg.cmdTab.scrollDR a.toNat b.toNat ++ cfg.cmdTab.scrollActivate)
  | .scrollDL a b => some (entryBytes cfg.cmdTab.scrollDL a.toNat b.toNat ++ cfg.cmdTab.scrollActivate)
  | .stopScroll => some cfg.cmdTab.scrollDeactivate
  | _ => none

/-- The controller state after such an operation succeeds: only SETDISPLAYON writes it (R241). -/
def commandCtrl (i : Instr) (c : CtrlState) : CtrlState :=
  match i with
  | .setDisplayOn true => .initOn
  | .setDisplayOn false => .initOff
  | _ => c

/-- The requests an operation that can wait for an answer (all but RESET, R52) sends from `s`, if every answer is OK (R224, R231, R240 to R250). -/
def requestsOf (s : State) (i : Instr) : Option (List TxRequest) :=
  match i with
  | .init => some (initRequests s.cfg)
  | .flush => some (flushRequests s.cfg s.fb)
  | _ => (commandBytes s.cfg i).map cmds

/-- The FrameBuffer, Rasterizer and TextRenderer operations (R3). -/
def isDrawing : Instr → Bool
  | .setPixel .. | .fill .. | .loadRaw .. | .setCursor .. | .line .. | .rect .. | .fillRect .. | .circle ..
  | .fillCircle .. | .arc .. | .arcRL .. | .polyline .. | .bitmap .. | .writeChar .. | .writeString .. => true
  | _ => false

/-- The operations that complete NOT_INIT while Uninitialized (R275). -/
def needsInit : Instr → Bool
  | .flush | .setContrast _ | .setDisplayOn _ | .invertDisplay _ | .scrollR .. | .scrollL .. | .scrollDR ..
  | .scrollDL .. | .stopScroll => true
  | _ => false

/-- The "raised by" column of R270, for a descriptor that passed decoding. -/
def mayRaise : Status → Instr → Bool
  | .ok, _ => true
  | .sizeMismatch, .loadRaw _ => true
  | .glyphOverflow, .writeChar .. => true
  | .glyphOverflow, .writeString .. => true
  | .busError, .init => true
  | .busError, i => needsInit i
  | .notInit, i => needsInit i
  | _, _ => false

/-- The operations that write the text cursor (R304). -/
def setsCursor : Instr → Bool
  | .setCursor .. | .writeChar .. | .writeString .. => true
  | _ => false

/-! ### Text -/

/-- The columns a run of characters takes (R202). -/
def textWidth (cfg : Config) (font : Byte) (chars : List Byte) : Nat :=
  (chars.map fun ch => (glyphFor cfg font ch).gw.toNat).sum

/-- The state after WRITECHAR on each character in turn (R206). -/
def afterChars (c : Colour) (font : Byte) : List Byte → State → State
  | [], s => s
  | ch :: rest, s =>
    match exec (.writeChar c font ch) s with
    | .next t => afterChars c font rest t
    | .fault _ => s
    | .refused _ => s

/-! ### The bus -/

/-- The host accesses R73 lists, for a read; writes are judged by the same widths and alignments (log 13). -/
def listedAccess (cfg : Config) (width : AccessWidth) (addr : Nat) : Prop :=
  ∃ off, off < 0x20000 ∧ addr = cfg.base + off
    ∧ ((off < 0x10000 ∧ width = .w32 ∧ off % 4 = 0) ∨ (0x10000 ≤ off ∧ off % widthBytes width = 0))

/-- Nothing of the block changed but perhaps Q, ERR and the bus: FB, cursor, controller, phase, RESULT and its count. -/
def SameBlock (s t : State) : Prop :=
  t.cfg = s.cfg ∧ t.fb = s.fb ∧ SameCursor s t ∧ SameController s t ∧ t.phase = s.phase ∧ t.result = s.result
    ∧ t.doneCount = s.doneCount

/-! ### Encoding -/

/-- The opcodes R112 lists as unassigned. -/
def unassignedCode (n : Nat) : Prop :=
  n = 0x00 ∨ (0x05 ≤ n ∧ n ≤ 0x0F) ∨ (0x19 ≤ n ∧ n ≤ 0x1F) ∨ (0x22 ≤ n ∧ n ≤ 0x2F) ∨ (0x3B ≤ n ∧ n ≤ 0xFF)

/-- The five conditions of R110 on a header and its payload. -/
def illegalDescriptor (h : Word) (p : List Word) : Prop :=
  opOfCode (opField h) = none
    ∨ ∃ op, opOfCode (opField h) = some op
        ∧ (rsvField h ≠ 0 ∨ (cField h = true ∧ op.usesC = false) ∨ requiredN op p ≠ some (nField h)
            ∨ payloadRsvZero op p = false)

/-- The match and mask columns of R108, the match of a C = 0 header. -/
def headerRow : Op → Word × Word
  | .setPixel => (0x00010001, 0xFFFFFEFF)
  | .fill => (0x00000002, 0xFFFFFEFF)
  | .loadRaw => (0x00000003, 0x0000FFFF)
  | .setCursor => (0x00010004, 0xFFFFFFFF)
  | .line => (0x00020010, 0xFFFFFEFF)
  | .rect => (0x00020011, 0xFFFFFEFF)
  | .fillRect => (0x00020012, 0xFFFFFEFF)
  | .circle => (0x00020013, 0xFFFFFEFF)
  | .fillCircle => (0x00020014, 0xFFFFFEFF)
  | .arc => (0x00030015, 0xFFFFFEFF)
  | .arcRL => (0x00030016, 0xFFFFFEFF)
  | .polyline => (0x00000017, 0x0000FEFF)
  | .bitmap => (0x00000018, 0x0000FEFF)
  | .writeChar => (0x00010020, 0xFFFFFEFF)
  | .writeString => (0x00000021, 0x0000FEFF)
  | .init => (0x00000030, 0xFFFFFFFF)
  | .flush => (0x00000031, 0xFFFFFFFF)
  | .setContrast => (0x00010032, 0xFFFFFFFF)
  | .setDisplayOn => (0x00000033, 0xFFFFFEFF)
  | .invertDisplay => (0x00000034, 0xFFFFFEFF)
  | .scrollR => (0x00010035, 0xFFFFFFFF)
  | .scrollL => (0x00010036, 0xFFFFFFFF)
  | .scrollDR => (0x00010037, 0xFFFFFFFF)
  | .scrollDL => (0x00010038, 0xFFFFFFFF)
  | .stopScroll => (0x00000039, 0xFFFFFFFF)
  | .reset => (0x0000003A, 0xFFFFFFFF)

/-- A header matches an op's row of R108. -/
def matchesRow (op : Op) (h : Word) : Prop := h &&& (headerRow op).2 = (headerRow op).1

/-- The instructions whose payload holds packed bytes, whose padding R105 leaves free. -/
def hasByteArea : Instr → Bool
  | .loadRaw _ | .bitmap .. | .writeString .. => true
  | _ => false

/-- The packed bytes of an instruction (R106: FRAW, FBMP, FSTR). -/
def packedBytes : Instr → List Byte
  | .loadRaw bytes => bytes
  | .bitmap _ _ _ _ _ bytes => bytes
  | .writeString _ _ chars => chars
  | _ => []

/-- The words before the packed bytes: the header, then P0, and P1 too for BITMAP (R106). -/
def wordsBeforeBytes : Instr → Nat
  | .bitmap .. => 3
  | _ => 2

end Sys2Proof.Machine
end

