-- ==== Sys2Proof/Certificates/Slice0/Obligations.lean ====
section
/-! DEFINITION. The statements about the FRDCS for the provers. Each docstring names the rule of spec/ it formalises. They hold of every
instance (`s.cfg` is any legal configuration) and every state, unless a hypothesis says otherwise. -/

open Sys2Proof Sys2Proof.Machine

/-! ### Encoding (30_encoding.md) -/

/-- Decoding the words of a well-formed instruction gives it back, with every operand, and the words after it (R100 to R108). -/
def Obligations.DecodeOfEncodeIsTheInstruction : Prop :=
  ∀ (i : Instr) (rest : List Word), i.wf = true → decode (encode i ++ rest) = .ok (i, rest)

/-- A decoded descriptor is a header and exactly its N payload words, and what is decoded is well-formed and encodes to as
many words (R100, R101, R103). -/
def Obligations.DecodedDescriptorIsFramedAndWellFormed : Prop :=
  ∀ (ws : List Word) (i : Instr) (rest : List Word), decode ws = .ok (i, rest) →
    i.wf = true
      ∧ ∃ h p, ws = h :: (p ++ rest) ∧ p.length = nField h ∧ (encode i).length = 1 + nField h

/-- Each valid descriptor has one encoding but for padding: encoding what was decoded gives the words back. For LOADRAW, BITMAP and
WRITESTRING it gives back the header and the operand words, reserved fields included, and the packed bytes, in as many words; only the
padding after them may differ (R101, R105, R106, R110). -/
def Obligations.EncodeOfDecodeIsTheWords : Prop :=
  ∀ (ws : List Word) (i : Instr) (rest : List Word), decode ws = .ok (i, rest) →
    (hasByteArea i = false → encode i ++ rest = ws)
      ∧ (hasByteArea i = true →
          (encode i).take (wordsBeforeBytes i) = ws.take (wordsBeforeBytes i)
            ∧ (encode i).length + rest.length = ws.length ∧ ws.drop (encode i).length = rest
            ∧ (bytesOfWords (ws.drop (wordsBeforeBytes i))).take (packedBytes i).length = packedBytes i
            ∧ (bytesOfWords ((encode i).drop (wordsBeforeBytes i))).take (packedBytes i).length = packedBytes i)

/-- A header and its N payload words are a valid descriptor of an op exactly when the header matches the op's row, N is the one N
the row accepts, and the reserved payload fields are 0; and no header matches two rows (R108). -/
def Obligations.ValidHeadersAreTheRowsOfTheTable : Prop :=
  (∀ (h : Word) (p : List Word) (op : Op), p.length = nField h →
      ((∃ i, decode (h :: p) = .ok (i, []) ∧ i.op = op)
        ↔ (matchesRow op h ∧ requiredN op p = some p.length ∧ payloadRsvZero op p = true)))
    ∧ ∀ (op op' : Op) (h : Word), matchesRow op h → matchesRow op' h → op = op'

/-- The worked encodings of R119 decode to the instructions they stand for. -/
def Obligations.WorkedEncodingsDecode : Prop :=
  decode [0x00020110, 0x000A000A, 0x00140014] = .ok (.line .white 10 10 20 20, [])
    ∧ decode [0x00000002] = .ok (.fill .black, [])
    ∧ decode [0x00000133] = .ok (.setDisplayOn true, [])
    ∧ decode [0x00020121, 0x00000002, 0x00004241] = .ok (.writeString .white 0 [0x41, 0x42], [])

/-! ### The engine (60_exceptions.md section 2) -/

/-- When the words at the head of Q decode to an instruction, the step is exec of it with those words removed, whether the
schedule (the model's, log 9) gives the engine the turn or is empty (R111, R273). -/
def Obligations.StepRunsTheDecodedDescriptor : Prop :=
  ∀ (s : State) (h : Word) (ws : List Word) (i : Instr) (rest : List Word), s.phase = .idle → s.queue = h :: ws →
    1 + nField h ≤ s.cfg.cmdqDepth → decode (h :: ws) = .ok (i, rest) →
    (s.schedule = [] → step s = exec i { s with queue := rest })
      ∧ ∀ ts, s.schedule = .engine :: ts → step s = exec i { s with queue := rest, schedule := ts }

/-- The opcodes R112 lists are exactly the unassigned ones; each of the five conditions of R110 makes a descriptor ILLEGAL: its
1 + N words are removed, ILLEGAL is posted, nothing else changes and nothing is sent (R110, R112). -/
def Obligations.IllegalDescriptorIsDiscarded : Prop :=
  (∀ b : Byte, opOfCode b = none ↔ unassignedCode b.toNat)
    ∧ ∀ (s : State) (h : Word) (ws : List Word), s.schedule = [] → s.phase = .idle → s.queue = h :: ws →
        1 + nField h ≤ s.cfg.cmdqDepth → nField h ≤ ws.length → illegalDescriptor h (ws.take (nField h)) →
        ∃ t, step s = .next t ∧ Completed s t .illegal 0
          ∧ SameFb s t ∧ SameCursor s t ∧ SameController s t ∧ SameHost { s with queue := ws.drop (nField h) } t

/-- An oversize descriptor: its header is removed and the engine enters Discard(N). In Discard(k) a step removes the word at the head of Q,
however few follow it, and decrements k; the one that brings k to 0 completes ILLEGAL. So k words are removed in k steps (R115). -/
def Obligations.OversizeDescriptorIsDiscarded : Prop :=
  (∀ (s : State) (h : Word) (ws : List Word), s.schedule = [] → s.phase = .idle → s.queue = h :: ws →
      s.cfg.cmdqDepth < 1 + nField h → step s = .next { s with queue := ws, phase := .discard (nField h) })
    ∧ (∀ (s : State) (k : Nat) (v : Word) (ws : List Word), s.schedule = [] → s.phase = .discard k → s.queue = v :: ws →
        (2 ≤ k → step s = .next { s with queue := ws, phase := .discard (k - 1) })
          ∧ (k = 1 → ∃ t, step s = .next t ∧ Completed s t .illegal 0
              ∧ SameFb s t ∧ SameCursor s t ∧ SameController s t ∧ SameHost { s with queue := ws } t))
    ∧ ∀ (s : State) (k : Nat) (ws rest : List Word), s.schedule = [] → 1 ≤ k → s.phase = .discard k →
        s.queue = ws ++ rest → ws.length = k →
        ∃ t, Host.Core.run Sys2Proof.core k s = .next t ∧ Completed s t .illegal 0
          ∧ SameFb s t ∧ SameCursor s t ∧ SameController s t ∧ SameHost { s with queue := rest } t

/-- The engine waits for a first word, for the missing words of a descriptor, for a word to discard, and, with BUSY = 1 and for as long as
it takes, for the answer to a TxCmd or TxData; it never waits for a TxReset or TxDelay, after which the rest of the descriptor runs
(R52, R111, R115, R273). That a waiting engine takes a step which leaves the state as it is, is the model's choice (log 20). -/
def Obligations.EngineWaitsForWordsAndAnswers : Prop :=
  ∀ s : State, s.schedule = [] →
    (s.phase = .idle → s.queue = [] → step s = .next s)
      ∧ (∀ h ws, s.phase = .idle → s.queue = h :: ws → 1 + nField h ≤ s.cfg.cmdqDepth → ws.length < nField h →
          step s = .next s ∧ isBusy s = true)
      ∧ (∀ k, s.phase = .discard k → s.queue = [] → step s = .next s ∧ isBusy s = true)
      ∧ ∀ w, s.phase = .exec w →
          (hasAnswer w.awaiting = true → s.txAnswers = [] →
              isBusy s = true ∧ ∀ n, Host.Core.run Sys2Proof.core n s = .next s)
            ∧ (hasAnswer w.awaiting = false → step s = .next (runProg w.failTo w.rest s))

/-- HEADLINE. Every step keeps the invariant: FB canonical and inside FBSIZE, Q within CMDQ_DEPTH, RESULT consistent with
DONE_COUNT and with the codes of R270, Discard(k) in range, the reset line asserted only while a RESET waits (R30, R43,
R44, R46, R52, R252). -/
def Obligations.StepKeepsTheInvariant : Prop :=
  ∀ s t : State, Inv s → step s = .next t → Inv t

/-- The state after reset meets the invariant. -/
def Obligations.ResetMeetsTheInvariant : Prop := Inv State.reset

/-- The reset values of R54. -/
def Obligations.ResetLeavesTheTableOfValues : Prop :=
  let s := State.reset
  (∀ i, Memory.read s.fb i = 0x00) ∧ s.cursorX = 0 ∧ s.cursorY = 0 ∧ s.ctrlState = .uninitialized
    ∧ isInitialized s = false ∧ isDisplayOn s = false ∧ s.queue = [] ∧ s.phase = .idle ∧ s.result = 0x00000000
    ∧ s.doneCount = 0 ∧ s.err = false ∧ s.resetLine = false

/-- Block reset, whatever the engine was doing: every field at its reset value, the configuration unchanged, Q and a held write
lost, no request sent, and a late answer to an abandoned request ignored (R300). -/
def Obligations.BlockResetPutsEveryFieldAtReset : Prop :=
  ∀ (s : State) (ts : List Turn), s.schedule = .blockReset :: ts →
    ∃ t, step s = .next t
      ∧ (∀ i, Memory.read t.fb i = 0) ∧ t.cursorX = 0 ∧ t.cursorY = 0 ∧ t.ctrlState = .uninitialized ∧ t.queue = []
      ∧ t.phase = .idle ∧ t.result = 0 ∧ t.doneCount = 0 ∧ t.err = false ∧ t.resetLine = false ∧ t.held = none
      ∧ t.cfg = s.cfg ∧ t.txLog = s.txLog ∧ ∀ a, answerTurn a t = t

/-- Answers that are ready and answers that come one turn at a time give the same run: with answers `as` ready an
instruction leaves the state that it leaves when it waits for each and `as` then arrive one by one (R52, R273). Running several requests in
one step is the model's choice (log 8); this says that it changes no result. -/
def Obligations.ReadyAnswersEqualOneTurnPerAnswer : Prop :=
  ∀ (i : Instr) (s : State) (as : List TxAnswer) (t u : State),
    exec i { s with txAnswers := as } = .next t → exec i { s with txAnswers := [] } = .next u →
    { t with txAnswers := [] } = as.foldl (fun v a => answerTurn a v) u

/-- Every instruction answers a next state and touches nothing of the host side; it completes once, with a status that R270 lets
it raise and VALUE 0 unless GLYPH_OVERFLOW, or it waits for the Transport with nothing posted (R270, R272, R273). -/
def Obligations.EveryInstructionCompletesOnceOrWaits : Prop :=
  ∀ (i : Instr) (s : State), ∃ t, exec i s = .next t ∧ SameHost s t
    ∧ ((∃ st v, Completed s t st v ∧ mayRaise st i = true ∧ (st ≠ .glyphOverflow → v = 0)) ∨ Waiting s t)

/-- The cursor is moved by block reset, SETCURSOR and text operations alone. A step that moves it is a block reset, or an Idle engine's
whose descriptor at the head of Q decodes to SETCURSOR or a text operation (in a cycle shared with the host, after the host's CMD write);
and no other instruction, no host turn, no Transport answer and no engine step outside Idle moves it (R304). -/
def Obligations.OnlyTextAndSetCursorMoveTheCursor : Prop :=
  (∀ s t : State, step s = .next t → ¬ SameCursor s t →
      s.schedule.head? = some .blockReset
        ∨ (s.phase = .idle ∧ ∃ q i rest, (q = s.queue ∨ (s.schedule.head? = some .both ∧ ∃ v, q = s.queue ++ [v]))
            ∧ decode q = .ok (i, rest) ∧ setsCursor i = true))
    ∧ (∀ (i : Instr) (s t : State), exec i s = .next t → setsCursor i = false → SameCursor s t)
    ∧ (∀ s t : State, hostTurn s = .next t → SameCursor s t)
    ∧ (∀ (a : TxAnswer) (s : State), SameCursor s (answerTurn a s))
    ∧ ∀ s t : State, engineTurn s = .next t → s.phase ≠ .idle → SameCursor s t

/-- The ctrlState transitions of R36, for every instruction that has completed. -/
def Obligations.CtrlStateTransitions : Prop :=
  ∀ (i : Instr) (s t : State), exec i s = .next t → t.phase = .idle →
    (i = .init →
        (resultCode t.result = statusCode .ok ∧ t.ctrlState = .initOn)
          ∨ (resultCode t.result = statusCode .busError ∧ t.ctrlState = .uninitialized))
      ∧ (∀ on, i = .setDisplayOn on → s.ctrlState ≠ .uninitialized →
          (resultCode t.result = statusCode .ok ∧ t.ctrlState = if on then .initOn else .initOff)
            ∨ (resultCode t.result = statusCode .busError ∧ t.ctrlState = s.ctrlState))
      ∧ (i = .reset → resultCode t.result = statusCode .ok ∧ t.ctrlState = .uninitialized)
      ∧ (needsInit i = true → s.ctrlState = .uninitialized →
          resultCode t.result = statusCode .notInit ∧ t.ctrlState = .uninitialized)
      ∧ (i ≠ .init → i ≠ .reset → (∀ on, i ≠ .setDisplayOn on) → t.ctrlState = s.ctrlState)

/-! ### FrameBuffer (40_framebuffer.md) -/

/-- SETPIXEL sets or clears bit y mod 8 of FB[(y / 8)·W + x] and no other byte; off-screen it changes no byte (R140, R142). -/
def Obligations.SetPixelWritesOneByte : Prop :=
  ∀ (c : Colour) (x y : Half) (s : State), ∃ t, exec (.setPixel c x y) s = .next t ∧ Completed s t .ok 0
    ∧ SameCursor s t ∧ SameController s t ∧ SameHost s t
    ∧ (x.toNat < s.cfg.w → y.toNat < s.cfg.h →
        Memory.read t.fb (y.toNat / 8 * s.cfg.w + x.toNat) =
            (match c with
              | .white => Memory.read s.fb (y.toNat / 8 * s.cfg.w + x.toNat) ||| (1#8 <<< (y.toNat % 8))
              | .black => Memory.read s.fb (y.toNat / 8 * s.cfg.w + x.toNat) &&& ~~~(1#8 <<< (y.toNat % 8)))
          ∧ ∀ a, a ≠ y.toNat / 8 * s.cfg.w + x.toNat → Memory.read t.fb a = Memory.read s.fb a)
    ∧ (s.cfg.w ≤ x.toNat ∨ s.cfg.h ≤ y.toNat → SameFb s t)

/-- SETPIXEL.W then SETPIXEL.B on an on-screen pixel leaves it 0 and every other pixel as it was, so FB reads as before exactly
when the pixel was 0; SETPIXEL.W twice is SETPIXEL.W once (R147). -/
def Obligations.SetPixelPairAndIdempotence : Prop :=
  ∀ (x y : Half) (s t u v : State), x.toNat < s.cfg.w → y.toNat < s.cfg.h →
    exec (.setPixel .white x y) s = .next t → exec (.setPixel .black x y) t = .next u →
    exec (.setPixel .white x y) t = .next v →
    getPx u x.toNat y.toNat = false
      ∧ (∀ a b, a < s.cfg.w → b < s.cfg.h → (a, b) ≠ (x.toNat, y.toNat) → getPx u a b = getPx s a b)
      ∧ (SameFb s u ↔ getPx s x.toNat y.toNat = false)
      ∧ SameFb t v

/-- FILL writes 0xFF or 0x00 to every byte, so every pixel reads the colour (R143, R148). -/
def Obligations.FillWritesEveryByte : Prop :=
  ∀ (c : Colour) (s : State), ∃ t, exec (.fill c) s = .next t ∧ Completed s t .ok 0
    ∧ SameCursor s t ∧ SameController s t ∧ SameHost s t
    ∧ (∀ i, i < s.cfg.fbSize → Memory.read t.fb i = (match c with | .white => 0xFF | .black => 0x00))
    ∧ (∀ x y, x < s.cfg.w → y < s.cfg.h → getPx t x y = c.bit)
    ∧ (FbOk s → ∀ i, s.cfg.fbSize ≤ i → Memory.read t.fb i = Memory.read s.fb i)

/-- LOADRAW with FBSIZE bytes makes FB[i] byte i of the source; with any other count it completes SIZE_MISMATCH and no byte
changes (R144, R145). -/
def Obligations.LoadRawReplacesOrMismatches : Prop :=
  ∀ (bytes : List Byte) (s : State), ∃ t, exec (.loadRaw bytes) s = .next t
    ∧ SameCursor s t ∧ SameController s t ∧ SameHost s t
    ∧ (bytes.length = s.cfg.fbSize → Completed s t .ok 0 ∧ (∀ i, i < s.cfg.fbSize → bytes[i]? = some (Memory.read t.fb i))
        ∧ (FbOk s → ∀ i, s.cfg.fbSize ≤ i → Memory.read t.fb i = Memory.read s.fb i))
    ∧ (bytes.length ≠ s.cfg.fbSize → Completed s t .sizeMismatch 0 ∧ SameFb s t)

/-- SETCURSOR stores both operands as given, on-screen or not (R146). -/
def Obligations.SetCursorStoresItsOperands : Prop :=
  ∀ (x y : Half) (s : State), ∃ t, exec (.setCursor x y) s = .next t ∧ Completed s t .ok 0
    ∧ t.cursorX = x ∧ t.cursorY = y ∧ cursorReg t = halves x y
    ∧ SameFb s t ∧ SameController s t ∧ SameHost s t

/-! ### Rasterizer (41_rasterizer.md) -/

/-- Paint makes exactly the on-screen points of its list the colour and leaves every other pixel; neither order nor repeats
matter (R141). -/
def Obligations.PaintDependsOnlyOnTheSetOfPoints : Prop :=
  ∀ (s : State) (P : List Point) (c : Colour),
    Painted s (paint s P c) c (fun x y => px x y ∈ P)
      ∧ ∀ Q : List Point, (∀ p, p ∈ P ↔ p ∈ Q) → SameFb (paint s P c) (paint s Q c)

/-- LINE paints LinePts of its end points (R163). -/
def Obligations.LinePaintsItsPoints : Prop :=
  ∀ (c : Colour) (x0 y0 x1 y1 : Half) (s : State),
    DrawsExactly (.line c x0 y0 x1 y1) s c fun x y => px x y ∈ linePts (coord x0) (coord y0) (coord x1) (coord y1)

/-- LinePts has max(dx, dy) + 1 points, no two equal, from the first end point to the second; each step moves one column or row along the
dominant axis and at most one across it, which it does exactly when the error term is positive: after k steps the offset m across is the
one with (2m - 1)·dM < 2k·dm ≤ (2m + 1)·dM, a tie staying (R162). -/
def Obligations.LinePointsRunFromEndToEnd : Prop :=
  ∀ x0 y0 x1 y1 : Int,
    let P := linePts x0 y0 x1 y1
    let dx : Int := (x1 - x0).natAbs
    let dy : Int := (y1 - y0).natAbs
    P.length = max (x1 - x0).natAbs (y1 - y0).natAbs + 1
      ∧ P.head? = some (x0, y0) ∧ P.getLast? = some (x1, y1) ∧ P.Nodup
      ∧ (∀ k p q, P[k]? = some p → P[k + 1]? = some q →
          if dy ≤ dx then
            q.1 = p.1 + (x1 - x0).sign ∧ (q.2 = p.2 ∨ q.2 = p.2 + (y1 - y0).sign)
          else q.2 = p.2 + (y1 - y0).sign ∧ (q.1 = p.1 ∨ q.1 = p.1 + (x1 - x0).sign))
      ∧ ∀ (k : Nat) (p : Point), P[k]? = some p →
          if dy ≤ dx then
            2 * k * dy ≤ (2 * (p.2 - y0).natAbs + 1) * dx ∧ (0 < k → (2 * (p.2 - y0).natAbs - 1) * dx < 2 * k * dy)
          else 2 * k * dx ≤ (2 * (p.1 - x0).natAbs + 1) * dy ∧ (0 < k → (2 * (p.1 - x0).natAbs - 1) * dy < 2 * k * dx)

/-- RECT paints exactly the outline between its corners, and the four corner orders give one outline (R165, R166). -/
def Obligations.RectPaintsItsOutline : Prop :=
  ∀ (c : Colour) (x0 y0 x1 y1 : Half) (s : State),
    DrawsExactly (.rect c x0 y0 x1 y1) s c (fun x y =>
        (min x0.toNat x1.toNat ≤ x ∧ x ≤ max x0.toNat x1.toNat ∧ (y = min y0.toNat y1.toNat ∨ y = max y0.toNat y1.toNat))
          ∨ (min y0.toNat y1.toNat ≤ y ∧ y ≤ max y0.toNat y1.toNat
              ∧ (x = min x0.toNat x1.toNat ∨ x = max x0.toNat x1.toNat)))
      ∧ exec (.rect c x1 y1 x0 y0) s = exec (.rect c x0 y0 x1 y1) s
      ∧ exec (.rect c x0 y1 x1 y0) s = exec (.rect c x0 y0 x1 y1) s
      ∧ exec (.rect c x1 y0 x0 y1) s = exec (.rect c x0 y0 x1 y1) s

/-- FILLRECT paints exactly the area between its corners, boundary included (R167). -/
def Obligations.FillRectPaintsItsArea : Prop :=
  ∀ (c : Colour) (x0 y0 x1 y1 : Half) (s : State),
    DrawsExactly (.fillRect c x0 y0 x1 y1) s c fun x y =>
      min x0.toNat x1.toNat ≤ x ∧ x ≤ max x0.toNat x1.toNat ∧ min y0.toNat y1.toNat ≤ y ∧ y ≤ max y0.toNat y1.toNat

/-- CIRCLE paints the eight images of every octant point, FILLCIRCLE the four spans of every octant point (R171, R173). -/
def Obligations.CirclesPaintTheirPoints : Prop :=
  ∀ (c : Colour) (cx cy r : Half) (s : State),
    DrawsExactly (.circle c cx cy r) s c (fun x y => ∃ p ∈ circleSteps r.toNat,
        ((x - coord cx).natAbs = p.1.natAbs ∧ (y - coord cy).natAbs = p.2.natAbs)
          ∨ ((x - coord cx).natAbs = p.2.natAbs ∧ (y - coord cy).natAbs = p.1.natAbs))
      ∧ DrawsExactly (.fillCircle c cx cy r) s c (fun x y => ∃ p ∈ circleSteps r.toNat,
        ((x - coord cx).natAbs ≤ p.1.natAbs ∧ (y - coord cy).natAbs = p.2.natAbs)
          ∨ ((x - coord cx).natAbs ≤ p.2.natAbs ∧ (y - coord cy).natAbs = p.1.natAbs))

/-- The octant walk: it starts at (0, r), stays within 0 ≤ x ≤ y, moves one column a step and at most one row, which it does not exactly
when the decision variable (x + 1)² + y² - y - r² is negative, and stops only where the point after it, (x + 1, y) if that is negative
and else (x + 1, y - 1), has x past y (R170); more turns of the loop add nothing. -/
def Obligations.OctantWalkIsConnectedAndComplete : Prop :=
  ∀ r : Nat,
    (circleSteps r).head? = some (0, (r : Int))
      ∧ (∀ p ∈ circleSteps r, 0 ≤ p.1 ∧ p.1 ≤ p.2 ∧ p.2 ≤ r)
      ∧ (∀ k p q, (circleSteps r)[k]? = some p → (circleSteps r)[k + 1]? = some q →
          q.1 = p.1 + 1 ∧ (q.2 = p.2 ∨ q.2 = p.2 - 1)
            ∧ (q.2 = p.2 ↔ (p.1 + 1) * (p.1 + 1) + p.2 * p.2 - p.2 < (r : Int) * r))
      ∧ (∀ p, (circleSteps r).getLast? = some p →
          (if (p.1 + 1) * (p.1 + 1) + p.2 * p.2 - p.2 < (r : Int) * r then p.2 else p.2 - 1) ≤ p.1)
      ∧ ∀ n, r + 1 ≤ n → circleLoop n 0 r (1 - r) = circleSteps r

/-- The CIRCLE set is unchanged under x ↦ 2cx − x, under y ↦ 2cy − y and under swapping the offsets, and two consecutive points of
the octant walk are 8-connected (R172). -/
def Obligations.CircleIsSymmetricAndClosed : Prop :=
  (∀ (cx cy : Int) (r : Nat) (x y : Int), (x, y) ∈ circlePts cx cy r →
      (2 * cx - x, y) ∈ circlePts cx cy r ∧ (x, 2 * cy - y) ∈ circlePts cx cy r
        ∧ (cx + (y - cy), cy + (x - cx)) ∈ circlePts cx cy r)
    ∧ ∀ (r k : Nat) (p q : Point), (circleSteps r)[k]? = some p → (circleSteps r)[k + 1]? = some q →
        p ≠ q ∧ (q.1 - p.1).natAbs ≤ 1 ∧ (q.2 - p.2).natAbs ≤ 1

/-- The FILLCIRCLE set contains the CIRCLE set, each span's ends are outline points, and every row from cy − r to cy + r holds
exactly one contiguous span (R174). -/
def Obligations.FilledCircleHasOneSpanARow : Prop :=
  ∀ (cx cy : Int) (r : Nat),
    (∀ p, p ∈ circlePts cx cy r → p ∈ fillCirclePts cx cy r)
      ∧ (∀ p ∈ circleSteps r,
          (cx - p.1, cy + p.2) ∈ circlePts cx cy r ∧ (cx + p.1, cy + p.2) ∈ circlePts cx cy r
            ∧ (cx - p.1, cy - p.2) ∈ circlePts cx cy r ∧ (cx + p.1, cy - p.2) ∈ circlePts cx cy r
            ∧ (cx - p.2, cy + p.1) ∈ circlePts cx cy r ∧ (cx + p.2, cy + p.1) ∈ circlePts cx cy r
            ∧ (cx - p.2, cy - p.1) ∈ circlePts cx cy r ∧ (cx + p.2, cy - p.1) ∈ circlePts cx cy r)
      ∧ ∀ y : Int, cy - r ≤ y → y ≤ cy + r →
          ∃ a b : Int, a ≤ b ∧ ∀ x : Int, (x, y) ∈ fillCirclePts cx cy r ↔ a ≤ x ∧ x ≤ b

/-- COSQ is SINQ a quarter turn on; rnd14 rounds a Q14 product to a nearest integer, half away from zero, symmetric about 0 (R181). -/
def Obligations.Rnd14RoundsHalfAwayFromZero : Prop :=
  (∀ θ, cosq θ = sinq (θ + 90))
    ∧ (∀ v : Int, 0 ≤ v → rnd14 v = (v + 8192) / 16384)
    ∧ (∀ v : Int, v < 0 → rnd14 v = -((-v + 8192) / 16384))
    ∧ (∀ v : Int, rnd14 (-v) = -rnd14 v)
    ∧ (∀ v : Int, 2 * (v - 16384 * rnd14 v).natAbs ≤ 16384)
    ∧ (∀ v : Int, 2 * (v - 16384 * rnd14 v).natAbs = 16384 → v.natAbs < (16384 * rnd14 v).natAbs)
    ∧ rnd14 8192 = 1 ∧ rnd14 (-8192) = -1 ∧ rnd14 8191 = 0

/-- SINQ: the 91 base values; bounded by 16384, period 360, odd half-turn, mirror symmetry about 90 degrees, rising from 0 to 90 (R180). -/
def Obligations.SineTableSymmetries : Prop :=
  (List.range 91).map sinq =
      [0, 286, 572, 857, 1143, 1428, 1713, 1997, 2280, 2563]
      ++ [2845, 3126, 3406, 3686, 3964, 4240, 4516, 4790, 5063, 5334]
      ++ [5604, 5872, 6138, 6402, 6664, 6924, 7182, 7438, 7692, 7943]
      ++ [8192, 8438, 8682, 8923, 9162, 9397, 9630, 9860, 10087, 10311]
      ++ [10531, 10749, 10963, 11174, 11381, 11585, 11786, 11982, 12176, 12365]
      ++ [12551, 12733, 12911, 13085, 13255, 13421, 13583, 13741, 13894, 14044]
      ++ [14189, 14330, 14466, 14598, 14726, 14849, 14968, 15082, 15191, 15296]
      ++ [15396, 15491, 15582, 15668, 15749, 15826, 15897, 15964, 16026, 16083]
      ++ [16135, 16182, 16225, 16262, 16294, 16322, 16344, 16362, 16374, 16382]
      ++ [16384]
    ∧ (∀ θ, (sinq θ).natAbs ≤ 16384)
    ∧ (∀ θ, sinq (θ + 360) = sinq θ)
    ∧ (∀ θ, sinq (θ + 180) = -sinq θ)
    ∧ (∀ θ, θ ≤ 180 → sinq (180 - θ) = sinq θ)
    ∧ (∀ θ, θ < 90 → sinq θ < sinq (θ + 1))

/-- ArcAngles: floor(sweep / step) + 1 angles start + k·step, and start + sweep after them when the step does not divide sweep; both ends
are visited (R182). -/
def Obligations.ArcAnglesVisitBothEnds : Prop :=
  ∀ step start sweep : Nat, 1 ≤ step →
    let A := arcAngles step start sweep
    A.length = sweep / step + 1 + (if sweep % step ≠ 0 then 1 else 0)
      ∧ (∀ k, k * step ≤ sweep → A[k]? = some (start + k * step))
      ∧ A.head? = some start ∧ A.getLast? = some (start + sweep)
      ∧ ∀ θ, sinq (θ % 360) = sinq θ

/-- ARC paints ArcPoint at start + k for every k ≤ sweep that the step divides and for k = sweep (R182, R183, R185). -/
def Obligations.ArcPaintsItsAngles : Prop :=
  ∀ (c : Colour) (cx cy r start sweep : Half) (s : State),
    DrawsExactly (.arc c cx cy r start sweep) s c fun x y =>
      ∃ k, k ≤ sweep.toNat ∧ (k % s.cfg.arcStep = 0 ∨ k = sweep.toNat)
        ∧ px x y = (coord cx + rnd14 (r.toNat * cosq (start.toNat + k)), coord cy + rnd14 (r.toNat * sinq (start.toNat + k)))

/-- With a step of one degree, a sweep of 359 or more paints what a sweep of 359 paints: the walk goes on and revisits (R184). -/
def Obligations.ArcPastAFullTurnAddsNothing : Prop :=
  ∀ (c : Colour) (cx cy r start sweep : Half) (s t u : State), s.cfg.arcStep = 1 → 359 ≤ sweep.toNat →
    exec (.arc c cx cy r start sweep) s = .next t → exec (.arc c cx cy r start 359) s = .next u → SameFb t u

/-- ARCRL paints the arc and the line from the centre to the point at start + sweep (R186). -/
def Obligations.ArcWithRadiusLinePaintsBoth : Prop :=
  ∀ (c : Colour) (cx cy r start sweep : Half) (s : State),
    DrawsExactly (.arcRL c cx cy r start sweep) s c fun x y =>
      (∃ k, k ≤ sweep.toNat ∧ (k % s.cfg.arcStep = 0 ∨ k = sweep.toNat)
          ∧ px x y = arcPoint (coord cx) (coord cy) r.toNat (start.toNat + k))
        ∨ px x y ∈ linePts (coord cx) (coord cy)
            (arcPoint (coord cx) (coord cy) r.toNat (start.toNat + sweep.toNat)).1
            (arcPoint (coord cx) (coord cy) r.toNat (start.toNat + sweep.toNat)).2

/-- POLYLINE paints the line between each two consecutive vertices and nothing else: nothing for fewer than two (R190). -/
def Obligations.PolylinePaintsConsecutiveLines : Prop :=
  ∀ (c : Colour) (vs : List Vertex) (s : State),
    DrawsExactly (.polyline c vs) s c fun x y =>
      ∃ pre v w post, vs = pre ++ v :: w :: post ∧ px x y ∈ linePts (coord v.x) (coord v.y) (coord w.x) (coord w.y)

/-- BITMAP paints (x + i, y + j) for each set source bit, the most significant bit of a row's first byte leftmost (R192, R193). -/
def Obligations.BitmapPaintsSetBits : Prop :=
  ∀ (c : Colour) (x0 y0 w h : Half) (bytes : List Byte) (s : State),
    DrawsExactly (.bitmap c x0 y0 w h bytes) s c fun x y =>
      ∃ i j, i < w.toNat ∧ j < h.toNat ∧ x = x0.toNat + i ∧ y = y0.toNat + j
        ∧ ∃ b, bytes[j * ((w.toNat + 7) / 8) + i / 8]? = some b ∧ b.getLsbD (7 - i % 8) = true

/-- BITMAP with an all-zero source leaves FB unchanged, for any colour (R194). -/
def Obligations.ZeroBitmapLeavesFb : Prop :=
  ∀ (c : Colour) (x y w h : Half) (bytes : List Byte) (s : State), (∀ b ∈ bytes, b = 0) →
    ∃ t, exec (.bitmap c x y w h bytes) s = .next t ∧ Completed s t .ok 0 ∧ SameFb s t

/-- Shape coordinates of u16 operands lie within [−65535, 2·65535], so a signed 32-bit datapath computes them exactly (R161). -/
def Obligations.ShapeCoordinatesAreBounded : Prop :=
  ∀ (a b d e f : Half) (step : Nat) (vs : List Vertex) (bytes : List Byte) (p : Point), 1 ≤ step →
    p ∈ linePts (coord a) (coord b) (coord d) (coord e) ∨ p ∈ rectPts (coord a) (coord b) (coord d) (coord e)
      ∨ p ∈ fillRectPts (coord a) (coord b) (coord d) (coord e) ∨ p ∈ circlePts (coord a) (coord b) d.toNat
      ∨ p ∈ fillCirclePts (coord a) (coord b) d.toNat
      ∨ p ∈ arcRLPts step (coord a) (coord b) d.toNat e.toNat f.toNat ∨ p ∈ polylinePts vs
      ∨ p ∈ bitmapPoints (coord a) (coord b) d.toNat e.toNat bytes →
    -65535 ≤ p.1 ∧ p.1 ≤ 131070 ∧ -65535 ≤ p.2 ∧ p.2 ≤ 131070

/-! ### TextRenderer (42_text.md) -/

/-- WRITECHAR: a glyph that would pass column W is rejected whole, with VALUE the character and nothing else changed; any other is
blitted transparently at the cursor, which advances by its width. A missing glyph is the empty glyph (R201, R202, R203). -/
def Obligations.WriteCharWritesOrRejects : Prop :=
  ∀ (c : Colour) (font ch : Byte) (s : State),
    let g := (fontLookup s.cfg font ch).getD { gw := 0, gh := 0, gb := [] }
    ∃ t, exec (.writeChar c font ch) s = .next t ∧ SameController s t ∧ SameHost s t ∧ t.cursorY = s.cursorY
      ∧ (s.cfg.w < s.cursorX.toNat + g.gw.toNat →
          Completed s t .glyphOverflow ch ∧ SameFb s t ∧ t.cursorX = s.cursorX)
      ∧ (s.cursorX.toNat + g.gw.toNat ≤ s.cfg.w →
          Completed s t .ok 0 ∧ t.cursorX.toNat = s.cursorX.toNat + g.gw.toNat
            ∧ Painted s t c fun x y => ∃ i j, i < g.gw.toNat ∧ j < g.gh.toNat ∧ bmpBit g.gb g.gw.toNat i j = true
                ∧ x = s.cursorX.toNat + i ∧ y = s.cursorY.toNat + j)

/-- WRITESTRING of characters that all fit completes OK; each glyph stands where the ones before it end, and the cursor after the
last (R205). With no character nothing changes, wherever the cursor is. -/
def Obligations.WriteStringWritesWhatFits : Prop :=
  ∀ (c : Colour) (font : Byte) (chars : List Byte) (s : State),
    chars = [] ∨ s.cursorX.toNat + textWidth s.cfg font chars ≤ s.cfg.w →
    ∃ t, exec (.writeString c font chars) s = .next t ∧ Completed s t .ok 0
      ∧ t.cursorX.toNat = s.cursorX.toNat + textWidth s.cfg font chars ∧ t.cursorY = s.cursorY
      ∧ SameController s t ∧ SameHost s t
      ∧ Painted s t c fun x y => ∃ pre ch post, chars = pre ++ ch :: post
          ∧ ∃ i j, i < (glyphFor s.cfg font ch).gw.toNat ∧ j < (glyphFor s.cfg font ch).gh.toNat
              ∧ bmpBit (glyphFor s.cfg font ch).gb (glyphFor s.cfg font ch).gw.toNat i j = true
              ∧ x = s.cursorX.toNat + textWidth s.cfg font pre + i ∧ y = s.cursorY.toNat + j

/-- WRITESTRING stops at the first character that does not fit, reports it, and leaves FB and the cursor as WRITECHAR on the
characters before it in turn would (R205, R206). -/
def Obligations.WriteStringStopsAtFirstMisfit : Prop :=
  ∀ (c : Colour) (font : Byte) (pre : List Byte) (ch : Byte) (post : List Byte) (s : State),
    pre = [] ∨ s.cursorX.toNat + textWidth s.cfg font pre ≤ s.cfg.w →
    s.cfg.w < s.cursorX.toNat + textWidth s.cfg font pre + (glyphFor s.cfg font ch).gw.toNat →
    ∃ t, exec (.writeString c font (pre ++ ch :: post)) s = .next t ∧ Completed s t .glyphOverflow ch
      ∧ SameFb (afterChars c font pre s) t ∧ SameCursor (afterChars c font pre s) t
      ∧ SameController s t ∧ SameHost s t

/-- No FrameBuffer, Rasterizer or TextRenderer operation looks at the controller or the Transport: from a state that differs in
them it does the same, and leaves them as they were (R275). -/
def Obligations.DrawingIgnoresTheController : Prop :=
  ∀ (i : Instr) (s t : State) (cs : CtrlState) (line : Bool) (answers : List TxAnswer) (log : List TxRequest)
    (pauses : List Bool), isDrawing i = true → exec i s = .next t →
    exec i { s with ctrlState := cs, resetLine := line, txAnswers := answers, pauses := pauses, txLog := log }
      = .next { t with ctrlState := cs, resetLine := line, txAnswers := answers, pauses := pauses, txLog := log }

/-! ### DisplayController (43_controller.md) -/

/-- INIT with every request answered OK, in any ctrlState: INIT_BYTES and a flush of zeros are sent, FB is cleared, ctrlState is
InitOn, the cursor stays (R222, R224). -/
def Obligations.InitSucceeds : Prop :=
  ∀ (s : State) (as : List TxAnswer), s.txAnswers = okAnswers (initRequests s.cfg).length ++ as →
    ∃ t, exec .init s = .next t ∧ Completed s t .ok 0 ∧ t.ctrlState = .initOn ∧ (∀ a, Memory.read t.fb a = 0)
      ∧ t.txLog = s.txLog ++ initRequests s.cfg ∧ t.txAnswers = as ∧ t.resetLine = s.resetLine ∧ t.pauses = s.pauses
      ∧ SameCursor s t ∧ SameHost s t

/-- INIT whose request k + 1 is answered BUS_ERROR ends there: no further request, ctrlState Uninitialized whatever it was, FB
unchanged if the failure is in INIT_BYTES and cleared if it is in the final flush (R224, R225, R226). -/
def Obligations.InitAbortsAtTheFirstBusError : Prop :=
  ∀ (s : State) (k : Nat) (as : List TxAnswer), k < (initRequests s.cfg).length →
    s.txAnswers = okAnswers k ++ .busError :: as →
    ∃ t, exec .init s = .next t ∧ Completed s t .busError 0 ∧ t.ctrlState = .uninitialized
      ∧ t.txLog = s.txLog ++ (initRequests s.cfg).take (k + 1) ∧ t.txAnswers = as ∧ t.resetLine = s.resetLine ∧ t.pauses = s.pauses
      ∧ (k < (initBytes s.cfg).length → SameFb s t)
      ∧ ((initBytes s.cfg).length ≤ k → ∀ a, Memory.read t.fb a = 0)
      ∧ SameCursor s t ∧ SameHost s t

/-- FLUSH in InitOff or InitOn, every request answered OK: page by page in ascending order the page and column commands, then the
page's W bytes of FB as it stood when FLUSH began, and nothing else changes (R230, R231). -/
def Obligations.FlushTransmitsEveryPage : Prop :=
  ∀ (s : State) (as : List TxAnswer), s.ctrlState ≠ .uninitialized →
    s.txAnswers = okAnswers (flushRequests s.cfg s.fb).length ++ as →
    ∃ t, exec .flush s = .next t ∧ Completed s t .ok 0
      ∧ t.txLog = s.txLog ++ flushRequests s.cfg s.fb ∧ t.txAnswers = as
      ∧ t.ctrlState = s.ctrlState ∧ t.resetLine = s.resetLine ∧ t.pauses = s.pauses ∧ SameFb s t ∧ SameCursor s t ∧ SameHost s t

/-- A FLUSH that ends in BUS_ERROR leaves ctrlState and FB unchanged; the requests up to the failing one have been sent and no
other (R232). -/
def Obligations.FlushAbortsAtTheFirstBusError : Prop :=
  ∀ (s : State) (k : Nat) (as : List TxAnswer), s.ctrlState ≠ .uninitialized →
    k < (flushRequests s.cfg s.fb).length → s.txAnswers = okAnswers k ++ .busError :: as →
    ∃ t, exec .flush s = .next t ∧ Completed s t .busError 0
      ∧ t.txLog = s.txLog ++ (flushRequests s.cfg s.fb).take (k + 1) ∧ t.txAnswers = as
      ∧ t.ctrlState = s.ctrlState ∧ t.resetLine = s.resetLine ∧ t.pauses = s.pauses ∧ SameFb s t ∧ SameCursor s t ∧ SameHost s t

/-- FLUSH, SETCONTRAST, SETDISPLAYON, INVERTDISPLAY, the four scrolls and STOPSCROLL complete NOT_INIT while Uninitialized, sending
and changing nothing (R275). -/
def Obligations.UninitializedControllerRefusesCommands : Prop :=
  ∀ (i : Instr) (s : State), needsInit i = true → s.ctrlState = .uninitialized →
    ∃ t, exec i s = .next t ∧ Completed s t .notInit 0 ∧ SameFb s t ∧ SameCursor s t ∧ SameController s t ∧ SameHost s t

/-- SETCONTRAST, SETDISPLAYON, INVERTDISPLAY, the four scrolls and STOPSCROLL on an initialised controller, every byte answered OK:
exactly the operation's command bytes are sent, one TxCmd each, and only SETDISPLAYON changes ctrlState. No scroll moves FB (R240 to R251). -/
def Obligations.CommandsSendTheirBytes : Prop :=
  ∀ (i : Instr) (s : State) (bs : List Byte) (as : List TxAnswer), commandBytes s.cfg i = some bs →
    s.ctrlState ≠ .uninitialized → s.txAnswers = okAnswers bs.length ++ as →
    ∃ t, exec i s = .next t ∧ Completed s t .ok 0 ∧ t.txLog = s.txLog ++ cmds bs ∧ t.txAnswers = as
      ∧ t.ctrlState = commandCtrl i s.ctrlState ∧ t.resetLine = s.resetLine ∧ t.pauses = s.pauses
      ∧ SameFb s t ∧ SameCursor s t ∧ SameHost s t

/-- The same operations with byte k + 1 answered BUS_ERROR: no later byte is sent, ctrlState is unchanged (R221, R240 to R250). -/
def Obligations.CommandsAbortAtTheFirstBusError : Prop :=
  ∀ (i : Instr) (s : State) (bs : List Byte) (k : Nat) (as : List TxAnswer), commandBytes s.cfg i = some bs →
    s.ctrlState ≠ .uninitialized → k < bs.length → s.txAnswers = okAnswers k ++ .busError :: as →
    ∃ t, exec i s = .next t ∧ Completed s t .busError 0 ∧ t.txLog = s.txLog ++ cmds (bs.take (k + 1)) ∧ t.txAnswers = as
      ∧ t.ctrlState = s.ctrlState ∧ t.resetLine = s.resetLine ∧ t.pauses = s.pauses ∧ SameFb s t ∧ SameCursor s t ∧ SameHost s t

/-- INIT, FLUSH, the single commands and the scrolls: one whose request k + 1 has no answer yet waits there with BUSY = 1, that request
sent and no later one, nothing posted; no request is retried (R52, R273). An INIT that waits inside INIT_BYTES is Uninitialized with FB as
before, one that waits inside its final flush is InitOn with FB cleared (R224). RESET has no request with an answer; its two delays are
ResetPulsesTheLine's. -/
def Obligations.ControllerOpWaitsForEachAnswer : Prop :=
  ∀ (i : Instr) (s : State) (rs : List TxRequest) (k : Nat), requestsOf s i = some rs →
    (i = .init ∨ s.ctrlState ≠ .uninitialized) → k < rs.length → s.txAnswers = okAnswers k →
    ∃ t, exec i s = .next t ∧ Waiting s t ∧ isBusy t = true ∧ t.txLog = s.txLog ++ rs.take (k + 1) ∧ t.txAnswers = []
      ∧ t.resetLine = s.resetLine ∧ t.pauses = s.pauses ∧ (i ≠ .init → t.ctrlState = s.ctrlState ∧ SameFb s t)
      ∧ (i = .init → k < (initBytes s.cfg).length → t.ctrlState = .uninitialized ∧ SameFb s t)
      ∧ (i = .init → (initBytes s.cfg).length ≤ k → t.ctrlState = .initOn ∧ ∀ a, Memory.read t.fb a = 0)
      ∧ SameCursor s t ∧ SameHost s t

/-- RESET, in any ctrlState, whatever answers the Transport has: the line is asserted, held, released, settled; ctrlState is Uninitialized;
no answer is taken and RESET never fails (R52, R53, R252). Where a step ends inside the hold, BUSY, the line and STATUS.RSTLINE read 1 there;
where one ends inside the settle delay, RSTLINE reads 0 and ctrlState is still what it was. In each case at most two more engine steps
complete it, with nothing from the Transport. Which delays a step ends in is the model's free choice (log 7). -/
def Obligations.ResetPulsesTheLine : Prop :=
  ∀ s : State,
    let hold := s.txLog ++ [.reset true, .delay s.cfg.resetHoldMs]
    let settle := hold ++ [.reset false, .delay s.cfg.resetSettleMs]
    ((∀ b ∈ s.pauses.take 2, b = false) →
        ∃ t, exec .reset s = .next t ∧ Completed s t .ok 0 ∧ t.ctrlState = .uninitialized ∧ t.resetLine = false
          ∧ t.txLog = settle ∧ t.txAnswers = s.txAnswers ∧ t.pauses = s.pauses.drop 2
          ∧ SameFb s t ∧ SameCursor s t ∧ SameHost s t)
      ∧ (∀ ps, s.pauses = true :: ps →
          ∃ t, exec .reset s = .next t ∧ Waiting s t ∧ isBusy t = true ∧ t.resetLine = true
            ∧ (statusReg t).getLsbD 4 = true ∧ t.ctrlState = s.ctrlState ∧ t.txLog = hold ∧ t.txAnswers = s.txAnswers
            ∧ t.pauses = ps ∧ SameFb s t ∧ SameCursor s t ∧ SameHost s t)
      ∧ (∀ ps, s.pauses = false :: true :: ps →
          ∃ t, exec .reset s = .next t ∧ Waiting s t ∧ isBusy t = true ∧ t.resetLine = false
            ∧ (statusReg t).getLsbD 4 = false ∧ t.ctrlState = s.ctrlState ∧ t.txLog = settle ∧ t.txAnswers = s.txAnswers
            ∧ t.pauses = ps ∧ SameFb s t ∧ SameCursor s t ∧ SameHost s t)
      ∧ (s.schedule = [] → ∃ t n u, exec .reset s = .next t ∧ n ≤ 2 ∧ Host.Core.run Sys2Proof.core n t = .next u
          ∧ Completed s u .ok 0 ∧ u.ctrlState = .uninitialized ∧ u.resetLine = false ∧ u.txLog = settle
          ∧ u.txAnswers = s.txAnswers ∧ SameFb s u ∧ SameCursor s u ∧ SameHost s u)

/-! ### The host port (20_memory.md, 10_state.md section 5) -/

/-- STATUS, field by field (R35, R45, R48, R53); after block reset it is QFREE alone (R301), which in the default instance that State.reset
carries (log 2) is 0x04000000. -/
def Obligations.StatusRegisterFields : Prop :=
  (∀ s : State,
    ((statusReg s).getLsbD 0 = true ↔ s.phase ≠ .idle ∨ s.queue ≠ [])
      ∧ ((statusReg s).getLsbD 1 = true ↔ s.ctrlState ≠ .uninitialized)
      ∧ ((statusReg s).getLsbD 2 = true ↔ s.ctrlState = .initOn)
      ∧ (statusReg s).getLsbD 3 = s.err ∧ (statusReg s).getLsbD 4 = s.resetLine
      ∧ (∀ k, 5 ≤ k → k ≤ 15 → (statusReg s).getLsbD k = false)
      ∧ (hiHalf (statusReg s)).toNat = min (s.cfg.cmdqDepth - s.queue.length) 0xFFFF)
    ∧ (∀ s : State, statusReg (blockReset s) = BitVec.ofNat 16 (min s.cfg.cmdqDepth 0xFFFF) ++ 0#16)
    ∧ statusReg State.reset = 0x04000000

/-- A listed read is answered and changes nothing but the record of it. Registers read as R71 gives them, FBWIN little-endian, 0 from FBSIZE on;
exact for CURSOR and FBWIN when BUSY = 0, for the others always (R49, R71, R72, R77, R78, R79). -/
def Obligations.HostReadsAreExact : Prop :=
  ∀ (s : State) (width : AccessWidth) (off : Nat) (ops : List HostAccess) (ts : List Turn),
    s.schedule = .host :: ts → s.held = none → s.hostOps = .read width (s.cfg.base + off) :: ops → off < 0x20000 →
    listedAccess s.cfg width (s.cfg.base + off) →
    (isBusy s = false ∨ (off ≠ 0x0C ∧ off < 0x10000)) →
    ∃ t v, step s = .next t ∧ t.reads = s.reads ++ [{ width := width, addr := s.cfg.base + off, value := v }]
      ∧ SameBlock s t ∧ t.queue = s.queue ∧ t.err = s.err ∧ t.held = none ∧ t.draws = s.draws ∧ t.hostOps = ops
      ∧ t.schedule = ts
      ∧ (off = 0x00 → v = 0) ∧ (off = 0x04 → v = statusReg s) ∧ (off = 0x08 → v = s.result)
      ∧ (off = 0x0C → v = halves s.cursorX s.cursorY)
      ∧ (off = 0x10 → (loHalf v).toNat = s.cfg.w ∧ (hiHalf v).toNat = s.cfg.h)
      ∧ (off = 0x14 → byteLane v 0 = s.cfg.xOffset ∧ (byteLane v 1).toNat = s.cfg.arcStep
            ∧ (hiHalf v).toNat = min s.cfg.cmdqDepth 0xFFFF)
      ∧ (0x18 ≤ off → off < 0x10000 → v = 0)
      ∧ (0x10000 ≤ off → ∀ k, k < 4 → byteLane v k =
            if k < widthBytes width ∧ off - 0x10000 + k < s.cfg.fbSize then Memory.read s.fb (off - 0x10000 + k) else 0)

/-- With BUSY = 1 a listed read of FBWIN or CURSOR is answered with some value and changes nothing of the block (R78, R310). The value is
the model's free draw (log 11); the statement says nothing of it. -/
def Obligations.BusyReadsAreAnswered : Prop :=
  ∀ (s : State) (width : AccessWidth) (off : Nat) (ops : List HostAccess) (ts : List Turn),
    s.schedule = .host :: ts → s.held = none → s.hostOps = .read width (s.cfg.base + off) :: ops →
    listedAccess s.cfg width (s.cfg.base + off) → isBusy s = true → (off = 0x0C ∨ 0x10000 ≤ off) →
    ∃ t v, step s = .next t ∧ t.reads = s.reads ++ [{ width := width, addr := s.cfg.base + off, value := v }]
      ∧ (∀ k, widthBytes width ≤ k → k < 4 → byteLane v k = 0)
      ∧ SameBlock s t ∧ t.queue = s.queue ∧ t.err = s.err ∧ t.held = none ∧ t.hostOps = ops ∧ t.schedule = ts

/-- The host's next access stops the model with a host access error exactly when R73 does not list it (R73, R75, R279). That an aligned
FBWIN write counts as listed, and a misaligned one does not, is the model's reading (log 13). -/
def Obligations.UnlistedAccessesFault : Prop :=
  ∀ (s : State) (a : HostAccess) (ops : List HostAccess) (ts : List Turn),
    s.schedule = .host :: ts → s.held = none → s.hostOps = a :: ops →
    (step s = .fault .hostAccessError ↔
      ¬ (match a with
          | .read width addr => listedAccess s.cfg width addr
          | .write width addr _ => listedAccess s.cfg width addr))

/-- A listed write. To CMD: appended while Q has room, else held on the bus. To STATUS: 1 in bit 3 clears ERR, 0 leaves it. Anywhere
else: ignored. A held write is taken as soon as Q has room, and until then the host has no other step (R48, R71, R72, R74, R77). Holding the
word beside Q (log 10) and ignoring an aligned FBWIN write of any width (log 13) are the model's readings. -/
def Obligations.HostWritesAppendClearOrAreIgnored : Prop :=
  (∀ (s : State) (width : AccessWidth) (off : Nat) (v : Word) (ops : List HostAccess) (ts : List Turn),
      s.schedule = .host :: ts → s.held = none → s.hostOps = .write width (s.cfg.base + off) v :: ops →
      listedAccess s.cfg width (s.cfg.base + off) →
      ∃ t, step s = .next t ∧ SameBlock s t ∧ t.reads = s.reads ∧ t.draws = s.draws ∧ t.hostOps = ops ∧ t.schedule = ts
        ∧ t.queue = (if off = 0x00 ∧ s.queue.length < s.cfg.cmdqDepth then s.queue ++ [v] else s.queue)
        ∧ t.held = (if off = 0x00 ∧ s.cfg.cmdqDepth ≤ s.queue.length then some v else none)
        ∧ t.err = (s.err && !(decide (off = 0x04) && v.getLsbD 3)))
    ∧ ∀ (s : State) (v : Word) (ts : List Turn), s.schedule = .host :: ts → s.held = some v →
        ∃ t, step s = .next t ∧ SameBlock s t ∧ t.reads = s.reads ∧ t.hostOps = s.hostOps ∧ t.err = s.err
          ∧ t.queue = (if s.queue.length < s.cfg.cmdqDepth then s.queue ++ [v] else s.queue)
          ∧ t.held = (if s.queue.length < s.cfg.cmdqDepth then none else some v)

/-- When the host clears ERR in a cycle in which a descriptor completes, whatever the descriptor and however it completes, ERR reads 1 after
it exactly when the code is not OK: the completion wins; with no completion ERR reads 0. An ILLEGAL descriptor of one word and a FILL are
two cases (R48). The shared turn, host first, is the model's (log 14). -/
def Obligations.CompletionBeatsSameCycleClear : Prop :=
  ∀ (s : State) (v : Word) (ops : List HostAccess) (ts : List Turn),
    s.schedule = .both :: ts → s.held = none → s.hostOps = .write .w32 (s.cfg.base + 0x04) v :: ops → v.getLsbD 3 = true →
    (∃ t, step s = .next t ∧ t.err = (decide (t.doneCount ≠ s.doneCount) && decide (resultCode t.result ≠ statusCode .ok)))
      ∧ ∀ (h : Word) (ws : List Word), s.phase = .idle → s.queue = h :: ws → nField h = 0 →
          (illegalDescriptor h [] → ∃ t, step s = .next t ∧ t.err = true ∧ t.doneCount = s.doneCount + 1)
            ∧ (h = 0x00000002 → ∃ t, step s = .next t ∧ t.err = false ∧ t.doneCount = s.doneCount + 1)
end

