-- ==== Sys2Proof/Laws/Decode.lean ====
section
/-! SUPPORT. The small laws of the encoding: fields of a header word, lanes and halves of a payload word, byte areas. -/
namespace Sys2Proof

theorem opOfCode_code (op : Op) : opOfCode op.code = some op := by cases op <;> rfl

theorem usesC_of_cBit (i : Instr) (h : i.cBit = true) : i.op.usesC = true := by
  cases i <;> simp_all [Instr.cBit, Instr.op, Op.usesC]

/-! ### Fields of words -/

@[simp] theorem loHalf_halves (lo hi : Half) : loHalf (halves lo hi) = lo := by
  ext i hi'
  simp only [loHalf, halves, BitVec.getElem_extractLsb', BitVec.getLsbD_append]
  rw [if_pos (by omega), Nat.zero_add, BitVec.getLsbD_eq_getElem hi']

@[simp] theorem hiHalf_halves (lo hi : Half) : hiHalf (halves lo hi) = hi := by
  ext i hi'
  simp only [hiHalf, halves, BitVec.getElem_extractLsb', BitVec.getLsbD_append]
  rw [if_neg (by omega), Nat.add_sub_cancel_left, BitVec.getLsbD_eq_getElem hi']

@[simp] theorem halves_loHalf_hiHalf (v : Word) : halves (loHalf v) (hiHalf v) = v := by
  refine BitVec.eq_of_getLsbD_eq fun i hi => ?_
  simp only [halves, loHalf, hiHalf, BitVec.getLsbD_append, BitVec.getLsbD_extractLsb']
  by_cases h : i < 16
  · rw [if_pos h, decide_eq_true h, Bool.true_and, Nat.zero_add]
  · rw [if_neg h, decide_eq_true (by omega), Bool.true_and, show 16 + (i - 16) = i by omega]

/-- The lanes of a word of four bytes (R105). -/
theorem byteLane_lanes (a b c d : Byte) :
    byteLane (lanes a b c d) 0 = a ∧ byteLane (lanes a b c d) 1 = b ∧ byteLane (lanes a b c d) 2 = c
      ∧ byteLane (lanes a b c d) 3 = d := by
  refine ⟨?_, ?_, ?_, ?_⟩ <;>
  · ext i hi
    simp only [byteLane, lanes, BitVec.getElem_extractLsb', BitVec.getLsbD_append]
    repeat (first | rw [if_pos (by omega)] | rw [if_neg (by omega)])
    rw [← BitVec.getLsbD_eq_getElem hi]
    congr 1
    omega

/-- The fields of a header word (R101). -/
theorem headerWord_fields (op : Op) (c : Bool) (n : Nat) :
    opField (headerWord op c n) = op.code ∧ cField (headerWord op c n) = c ∧ rsvField (headerWord op c n) = 0
      ∧ nField (headerWord op c n) = n % 2 ^ 16 := by
  refine ⟨?_, ?_, ?_, ?_⟩
  · ext i hi
    simp only [opField, headerWord, BitVec.getElem_extractLsb', BitVec.getLsbD_append]
    rw [if_pos (by omega), ← BitVec.getLsbD_eq_getElem hi, Nat.zero_add]
  · simp only [cField, headerWord, BitVec.getLsbD_append]
    rw [if_neg (by omega), if_pos (by omega)]
    simp
  · ext i hi
    simp only [rsvField, headerWord, BitVec.getElem_extractLsb', BitVec.getLsbD_append]
    rw [if_neg (by omega), if_neg (by omega), if_pos (by omega)]
    simp
  · rw [← BitVec.toNat_ofNat, nField]
    congr 1
    ext i hi
    simp only [headerWord, BitVec.getElem_extractLsb', BitVec.getLsbD_append]
    rw [if_neg (by omega), if_neg (by omega), if_neg (by omega), show 16 + i - 8 - 1 - 7 = i by omega,
      BitVec.getLsbD_eq_getElem hi]

/-! ### Byte areas -/

theorem length_wordsOfBytes (bs : List Byte) : (wordsOfBytes bs).length = divUp bs.length 4 := by
  induction bs using wordsOfBytes.induct with
  | case1 | case2 | case3 | case4 => simp [wordsOfBytes, divUp]
  | case5 a b c d rest ih =>
    simp only [wordsOfBytes, List.length_cons, ih, divUp]
    omega

theorem length_bytesOfWords (ws : List Word) : (bytesOfWords ws).length = 4 * ws.length := by
  induction ws with
  | nil => rfl
  | cons v ws ih =>
    simp only [bytesOfWords, List.length_cons, ih]
    omega

/-- Unpacking what was packed gives the bytes back, then padding (R105). -/
theorem take_bytesOfWords_wordsOfBytes (bs : List Byte) :
    (bytesOfWords (wordsOfBytes bs)).take bs.length = bs := by
  induction bs using wordsOfBytes.induct with
  | case1 => rfl
  | case2 a => simp [wordsOfBytes, bytesOfWords, byteLane_lanes]
  | case3 a b => simp [wordsOfBytes, bytesOfWords, byteLane_lanes]
  | case4 a b c => simp [wordsOfBytes, bytesOfWords, byteLane_lanes]
  | case5 a b c d rest ih => simp [wordsOfBytes, bytesOfWords, byteLane_lanes, ih]

end Sys2Proof
end

