-- ==== Sys2Proof/Laws/State.lean ====
section
/-! SUPPORT. One lemma per field of State and update of it, each true by definition, so that no later proof unfolds a record
update. -/
namespace Sys2Proof.Machine

/-! ### complete -/

@[simp] theorem complete_cfg (s : State) (st : Status) (v : Byte) :
    (complete s st v).cfg = s.cfg := rfl
@[simp] theorem complete_fb (s : State) (st : Status) (v : Byte) :
    (complete s st v).fb = s.fb := rfl
@[simp] theorem complete_cursorX (s : State) (st : Status) (v : Byte) :
    (complete s st v).cursorX = s.cursorX := rfl
@[simp] theorem complete_cursorY (s : State) (st : Status) (v : Byte) :
    (complete s st v).cursorY = s.cursorY := rfl
@[simp] theorem complete_ctrlState (s : State) (st : Status) (v : Byte) :
    (complete s st v).ctrlState = s.ctrlState := rfl
@[simp] theorem complete_queue (s : State) (st : Status) (v : Byte) :
    (complete s st v).queue = s.queue := rfl
@[simp] theorem complete_phase (s : State) (st : Status) (v : Byte) :
    (complete s st v).phase = .idle := rfl
@[simp] theorem complete_result (s : State) (st : Status) (v : Byte) :
    (complete s st v).result = packResult (s.doneCount + 1) v st := rfl
@[simp] theorem complete_doneCount (s : State) (st : Status) (v : Byte) :
    (complete s st v).doneCount = s.doneCount + 1 := rfl
@[simp] theorem complete_err (s : State) (st : Status) (v : Byte) :
    (complete s st v).err = (s.err || decide (st ≠ .ok)) := rfl
@[simp] theorem complete_resetLine (s : State) (st : Status) (v : Byte) :
    (complete s st v).resetLine = s.resetLine := rfl
@[simp] theorem complete_held (s : State) (st : Status) (v : Byte) :
    (complete s st v).held = s.held := rfl
@[simp] theorem complete_txAnswers (s : State) (st : Status) (v : Byte) :
    (complete s st v).txAnswers = s.txAnswers := rfl
@[simp] theorem complete_pauses (s : State) (st : Status) (v : Byte) :
    (complete s st v).pauses = s.pauses := rfl
@[simp] theorem complete_txLog (s : State) (st : Status) (v : Byte) :
    (complete s st v).txLog = s.txLog := rfl
@[simp] theorem complete_schedule (s : State) (st : Status) (v : Byte) :
    (complete s st v).schedule = s.schedule := rfl
@[simp] theorem complete_hostOps (s : State) (st : Status) (v : Byte) :
    (complete s st v).hostOps = s.hostOps := rfl
@[simp] theorem complete_reads (s : State) (st : Status) (v : Byte) :
    (complete s st v).reads = s.reads := rfl
@[simp] theorem complete_draws (s : State) (st : Status) (v : Byte) :
    (complete s st v).draws = s.draws := rfl

/-- `raise S` is `complete(S, 0)` (R272). -/
@[simp] theorem raise_eq_complete (s : State) (st : Status) : raise s st = complete s st 0 := rfl

/-! ### paint -/

@[simp] theorem paint_cfg (s : State) (P : List Point) (c : Colour) :
    (paint s P c).cfg = s.cfg := rfl
@[simp] theorem paint_fb (s : State) (P : List Point) (c : Colour) :
    (paint s P c).fb = P.foldl (setPx s.cfg c) s.fb := rfl
@[simp] theorem paint_cursorX (s : State) (P : List Point) (c : Colour) :
    (paint s P c).cursorX = s.cursorX := rfl
@[simp] theorem paint_cursorY (s : State) (P : List Point) (c : Colour) :
    (paint s P c).cursorY = s.cursorY := rfl
@[simp] theorem paint_ctrlState (s : State) (P : List Point) (c : Colour) :
    (paint s P c).ctrlState = s.ctrlState := rfl
@[simp] theorem paint_queue (s : State) (P : List Point) (c : Colour) :
    (paint s P c).queue = s.queue := rfl
@[simp] theorem paint_phase (s : State) (P : List Point) (c : Colour) :
    (paint s P c).phase = s.phase := rfl
@[simp] theorem paint_result (s : State) (P : List Point) (c : Colour) :
    (paint s P c).result = s.result := rfl
@[simp] theorem paint_doneCount (s : State) (P : List Point) (c : Colour) :
    (paint s P c).doneCount = s.doneCount := rfl
@[simp] theorem paint_err (s : State) (P : List Point) (c : Colour) :
    (paint s P c).err = s.err := rfl
@[simp] theorem paint_resetLine (s : State) (P : List Point) (c : Colour) :
    (paint s P c).resetLine = s.resetLine := rfl
@[simp] theorem paint_held (s : State) (P : List Point) (c : Colour) :
    (paint s P c).held = s.held := rfl
@[simp] theorem paint_txAnswers (s : State) (P : List Point) (c : Colour) :
    (paint s P c).txAnswers = s.txAnswers := rfl
@[simp] theorem paint_pauses (s : State) (P : List Point) (c : Colour) :
    (paint s P c).pauses = s.pauses := rfl
@[simp] theorem paint_txLog (s : State) (P : List Point) (c : Colour) :
    (paint s P c).txLog = s.txLog := rfl
@[simp] theorem paint_schedule (s : State) (P : List Point) (c : Colour) :
    (paint s P c).schedule = s.schedule := rfl
@[simp] theorem paint_hostOps (s : State) (P : List Point) (c : Colour) :
    (paint s P c).hostOps = s.hostOps := rfl
@[simp] theorem paint_reads (s : State) (P : List Point) (c : Colour) :
    (paint s P c).reads = s.reads := rfl
@[simp] theorem paint_draws (s : State) (P : List Point) (c : Colour) :
    (paint s P c).draws = s.draws := rfl

/-! ### fillFb -/

@[simp] theorem fillFb_cfg (s : State) (v : Byte) :
    (fillFb s v).cfg = s.cfg := rfl
@[simp] theorem fillFb_fb (s : State) (v : Byte) :
    (fillFb s v).fb = Memory.tabulate s.cfg.fbSize fun _ => v := rfl
@[simp] theorem fillFb_cursorX (s : State) (v : Byte) :
    (fillFb s v).cursorX = s.cursorX := rfl
@[simp] theorem fillFb_cursorY (s : State) (v : Byte) :
    (fillFb s v).cursorY = s.cursorY := rfl
@[simp] theorem fillFb_ctrlState (s : State) (v : Byte) :
    (fillFb s v).ctrlState = s.ctrlState := rfl
@[simp] theorem fillFb_queue (s : State) (v : Byte) :
    (fillFb s v).queue = s.queue := rfl
@[simp] theorem fillFb_phase (s : State) (v : Byte) :
    (fillFb s v).phase = s.phase := rfl
@[simp] theorem fillFb_result (s : State) (v : Byte) :
    (fillFb s v).result = s.result := rfl
@[simp] theorem fillFb_doneCount (s : State) (v : Byte) :
    (fillFb s v).doneCount = s.doneCount := rfl
@[simp] theorem fillFb_err (s : State) (v : Byte) :
    (fillFb s v).err = s.err := rfl
@[simp] theorem fillFb_resetLine (s : State) (v : Byte) :
    (fillFb s v).resetLine = s.resetLine := rfl
@[simp] theorem fillFb_held (s : State) (v : Byte) :
    (fillFb s v).held = s.held := rfl
@[simp] theorem fillFb_txAnswers (s : State) (v : Byte) :
    (fillFb s v).txAnswers = s.txAnswers := rfl
@[simp] theorem fillFb_pauses (s : State) (v : Byte) :
    (fillFb s v).pauses = s.pauses := rfl
@[simp] theorem fillFb_txLog (s : State) (v : Byte) :
    (fillFb s v).txLog = s.txLog := rfl
@[simp] theorem fillFb_schedule (s : State) (v : Byte) :
    (fillFb s v).schedule = s.schedule := rfl
@[simp] theorem fillFb_hostOps (s : State) (v : Byte) :
    (fillFb s v).hostOps = s.hostOps := rfl
@[simp] theorem fillFb_reads (s : State) (v : Byte) :
    (fillFb s v).reads = s.reads := rfl
@[simp] theorem fillFb_draws (s : State) (v : Byte) :
    (fillFb s v).draws = s.draws := rfl

/-! ### loadFb -/

@[simp] theorem loadFb_cfg (s : State) (b : List Byte) :
    (loadFb s b).cfg = s.cfg := rfl
@[simp] theorem loadFb_fb (s : State) (b : List Byte) :
    (loadFb s b).fb = Memory.tabulate s.cfg.fbSize fun i => b.getD i 0 := rfl
@[simp] theorem loadFb_cursorX (s : State) (b : List Byte) :
    (loadFb s b).cursorX = s.cursorX := rfl
@[simp] theorem loadFb_cursorY (s : State) (b : List Byte) :
    (loadFb s b).cursorY = s.cursorY := rfl
@[simp] theorem loadFb_ctrlState (s : State) (b : List Byte) :
    (loadFb s b).ctrlState = s.ctrlState := rfl
@[simp] theorem loadFb_queue (s : State) (b : List Byte) :
    (loadFb s b).queue = s.queue := rfl
@[simp] theorem loadFb_phase (s : State) (b : List Byte) :
    (loadFb s b).phase = s.phase := rfl
@[simp] theorem loadFb_result (s : State) (b : List Byte) :
    (loadFb s b).result = s.result := rfl
@[simp] theorem loadFb_doneCount (s : State) (b : List Byte) :
    (loadFb s b).doneCount = s.doneCount := rfl
@[simp] theorem loadFb_err (s : State) (b : List Byte) :
    (loadFb s b).err = s.err := rfl
@[simp] theorem loadFb_resetLine (s : State) (b : List Byte) :
    (loadFb s b).resetLine = s.resetLine := rfl
@[simp] theorem loadFb_held (s : State) (b : List Byte) :
    (loadFb s b).held = s.held := rfl
@[simp] theorem loadFb_txAnswers (s : State) (b : List Byte) :
    (loadFb s b).txAnswers = s.txAnswers := rfl
@[simp] theorem loadFb_pauses (s : State) (b : List Byte) :
    (loadFb s b).pauses = s.pauses := rfl
@[simp] theorem loadFb_txLog (s : State) (b : List Byte) :
    (loadFb s b).txLog = s.txLog := rfl
@[simp] theorem loadFb_schedule (s : State) (b : List Byte) :
    (loadFb s b).schedule = s.schedule := rfl
@[simp] theorem loadFb_hostOps (s : State) (b : List Byte) :
    (loadFb s b).hostOps = s.hostOps := rfl
@[simp] theorem loadFb_reads (s : State) (b : List Byte) :
    (loadFb s b).reads = s.reads := rfl
@[simp] theorem loadFb_draws (s : State) (b : List Byte) :
    (loadFb s b).draws = s.draws := rfl

/-! ### issue -/

@[simp] theorem issue_cfg (s : State) (r : TxRequest) :
    (issue s r).cfg = s.cfg := rfl
@[simp] theorem issue_fb (s : State) (r : TxRequest) :
    (issue s r).fb = s.fb := rfl
@[simp] theorem issue_cursorX (s : State) (r : TxRequest) :
    (issue s r).cursorX = s.cursorX := rfl
@[simp] theorem issue_cursorY (s : State) (r : TxRequest) :
    (issue s r).cursorY = s.cursorY := rfl
@[simp] theorem issue_ctrlState (s : State) (r : TxRequest) :
    (issue s r).ctrlState = s.ctrlState := rfl
@[simp] theorem issue_queue (s : State) (r : TxRequest) :
    (issue s r).queue = s.queue := rfl
@[simp] theorem issue_phase (s : State) (r : TxRequest) :
    (issue s r).phase = s.phase := rfl
@[simp] theorem issue_result (s : State) (r : TxRequest) :
    (issue s r).result = s.result := rfl
@[simp] theorem issue_doneCount (s : State) (r : TxRequest) :
    (issue s r).doneCount = s.doneCount := rfl
@[simp] theorem issue_err (s : State) (r : TxRequest) :
    (issue s r).err = s.err := rfl
@[simp] theorem issue_resetLine (s : State) (r : TxRequest) :
    (issue s r).resetLine = lineAfter s.resetLine r := rfl
@[simp] theorem issue_held (s : State) (r : TxRequest) :
    (issue s r).held = s.held := rfl
@[simp] theorem issue_txAnswers (s : State) (r : TxRequest) :
    (issue s r).txAnswers = s.txAnswers := rfl
@[simp] theorem issue_pauses (s : State) (r : TxRequest) :
    (issue s r).pauses = s.pauses := rfl
@[simp] theorem issue_txLog (s : State) (r : TxRequest) :
    (issue s r).txLog = s.txLog ++ [r] := rfl
@[simp] theorem issue_schedule (s : State) (r : TxRequest) :
    (issue s r).schedule = s.schedule := rfl
@[simp] theorem issue_hostOps (s : State) (r : TxRequest) :
    (issue s r).hostOps = s.hostOps := rfl
@[simp] theorem issue_reads (s : State) (r : TxRequest) :
    (issue s r).reads = s.reads := rfl
@[simp] theorem issue_draws (s : State) (r : TxRequest) :
    (issue s r).draws = s.draws := rfl

/-! ### busFailure -/

@[simp] theorem busFailure_cfg (s : State) (f : Option CtrlState) :
    (busFailure f s).cfg = s.cfg := rfl
@[simp] theorem busFailure_fb (s : State) (f : Option CtrlState) :
    (busFailure f s).fb = s.fb := rfl
@[simp] theorem busFailure_cursorX (s : State) (f : Option CtrlState) :
    (busFailure f s).cursorX = s.cursorX := rfl
@[simp] theorem busFailure_cursorY (s : State) (f : Option CtrlState) :
    (busFailure f s).cursorY = s.cursorY := rfl
@[simp] theorem busFailure_ctrlState (s : State) (f : Option CtrlState) :
    (busFailure f s).ctrlState = f.getD s.ctrlState := rfl
@[simp] theorem busFailure_queue (s : State) (f : Option CtrlState) :
    (busFailure f s).queue = s.queue := rfl
@[simp] theorem busFailure_phase (s : State) (f : Option CtrlState) :
    (busFailure f s).phase = .idle := rfl
@[simp] theorem busFailure_result (s : State) (f : Option CtrlState) :
    (busFailure f s).result = packResult (s.doneCount + 1) 0 .busError := rfl
@[simp] theorem busFailure_doneCount (s : State) (f : Option CtrlState) :
    (busFailure f s).doneCount = s.doneCount + 1 := rfl
@[simp] theorem busFailure_err (s : State) (f : Option CtrlState) :
    (busFailure f s).err = (s.err || decide (Status.busError ≠ .ok)) := rfl
@[simp] theorem busFailure_resetLine (s : State) (f : Option CtrlState) :
    (busFailure f s).resetLine = s.resetLine := rfl
@[simp] theorem busFailure_held (s : State) (f : Option CtrlState) :
    (busFailure f s).held = s.held := rfl
@[simp] theorem busFailure_txAnswers (s : State) (f : Option CtrlState) :
    (busFailure f s).txAnswers = s.txAnswers := rfl
@[simp] theorem busFailure_pauses (s : State) (f : Option CtrlState) :
    (busFailure f s).pauses = s.pauses := rfl
@[simp] theorem busFailure_txLog (s : State) (f : Option CtrlState) :
    (busFailure f s).txLog = s.txLog := rfl
@[simp] theorem busFailure_schedule (s : State) (f : Option CtrlState) :
    (busFailure f s).schedule = s.schedule := rfl
@[simp] theorem busFailure_hostOps (s : State) (f : Option CtrlState) :
    (busFailure f s).hostOps = s.hostOps := rfl
@[simp] theorem busFailure_reads (s : State) (f : Option CtrlState) :
    (busFailure f s).reads = s.reads := rfl
@[simp] theorem busFailure_draws (s : State) (f : Option CtrlState) :
    (busFailure f s).draws = s.draws := rfl

/-! ### hostRead -/

@[simp] theorem hostRead_cfg (s : State) (w : AccessWidth) (a o : Nat) :
    (hostRead s w a o).cfg = s.cfg := rfl
@[simp] theorem hostRead_fb (s : State) (w : AccessWidth) (a o : Nat) :
    (hostRead s w a o).fb = s.fb := rfl
@[simp] theorem hostRead_cursorX (s : State) (w : AccessWidth) (a o : Nat) :
    (hostRead s w a o).cursorX = s.cursorX := rfl
@[simp] theorem hostRead_cursorY (s : State) (w : AccessWidth) (a o : Nat) :
    (hostRead s w a o).cursorY = s.cursorY := rfl
@[simp] theorem hostRead_ctrlState (s : State) (w : AccessWidth) (a o : Nat) :
    (hostRead s w a o).ctrlState = s.ctrlState := rfl
@[simp] theorem hostRead_queue (s : State) (w : AccessWidth) (a o : Nat) :
    (hostRead s w a o).queue = s.queue := rfl
@[simp] theorem hostRead_phase (s : State) (w : AccessWidth) (a o : Nat) :
    (hostRead s w a o).phase = s.phase := rfl
@[simp] theorem hostRead_result (s : State) (w : AccessWidth) (a o : Nat) :
    (hostRead s w a o).result = s.result := rfl
@[simp] theorem hostRead_doneCount (s : State) (w : AccessWidth) (a o : Nat) :
    (hostRead s w a o).doneCount = s.doneCount := rfl
@[simp] theorem hostRead_err (s : State) (w : AccessWidth) (a o : Nat) :
    (hostRead s w a o).err = s.err := rfl
@[simp] theorem hostRead_resetLine (s : State) (w : AccessWidth) (a o : Nat) :
    (hostRead s w a o).resetLine = s.resetLine := rfl
@[simp] theorem hostRead_held (s : State) (w : AccessWidth) (a o : Nat) :
    (hostRead s w a o).held = s.held := rfl
@[simp] theorem hostRead_txAnswers (s : State) (w : AccessWidth) (a o : Nat) :
    (hostRead s w a o).txAnswers = s.txAnswers := rfl
@[simp] theorem hostRead_pauses (s : State) (w : AccessWidth) (a o : Nat) :
    (hostRead s w a o).pauses = s.pauses := rfl
@[simp] theorem hostRead_txLog (s : State) (w : AccessWidth) (a o : Nat) :
    (hostRead s w a o).txLog = s.txLog := rfl
@[simp] theorem hostRead_schedule (s : State) (w : AccessWidth) (a o : Nat) :
    (hostRead s w a o).schedule = s.schedule := rfl
@[simp] theorem hostRead_hostOps (s : State) (w : AccessWidth) (a o : Nat) :
    (hostRead s w a o).hostOps = s.hostOps := rfl
@[simp] theorem hostRead_reads (s : State) (w : AccessWidth) (a o : Nat) :
    (hostRead s w a o).reads = s.reads ++ [BusReply.mk w a (readValue s w o)] := rfl
@[simp] theorem hostRead_draws (s : State) (w : AccessWidth) (a o : Nat) :
    (hostRead s w a o).draws = if isBusy s && freeWhileBusy o then s.draws + 1 else s.draws := rfl

/-! ### blockReset -/

@[simp] theorem blockReset_cfg (s : State) :
    (blockReset s).cfg = s.cfg := rfl
@[simp] theorem blockReset_fb (s : State) :
    (blockReset s).fb = State.reset.fb := rfl
@[simp] theorem blockReset_cursorX (s : State) :
    (blockReset s).cursorX = State.reset.cursorX := rfl
@[simp] theorem blockReset_cursorY (s : State) :
    (blockReset s).cursorY = State.reset.cursorY := rfl
@[simp] theorem blockReset_ctrlState (s : State) :
    (blockReset s).ctrlState = State.reset.ctrlState := rfl
@[simp] theorem blockReset_queue (s : State) :
    (blockReset s).queue = State.reset.queue := rfl
@[simp] theorem blockReset_phase (s : State) :
    (blockReset s).phase = State.reset.phase := rfl
@[simp] theorem blockReset_result (s : State) :
    (blockReset s).result = State.reset.result := rfl
@[simp] theorem blockReset_doneCount (s : State) :
    (blockReset s).doneCount = State.reset.doneCount := rfl
@[simp] theorem blockReset_err (s : State) :
    (blockReset s).err = State.reset.err := rfl
@[simp] theorem blockReset_resetLine (s : State) :
    (blockReset s).resetLine = State.reset.resetLine := rfl
@[simp] theorem blockReset_held (s : State) :
    (blockReset s).held = State.reset.held := rfl
@[simp] theorem blockReset_txAnswers (s : State) :
    (blockReset s).txAnswers = s.txAnswers := rfl
@[simp] theorem blockReset_pauses (s : State) :
    (blockReset s).pauses = s.pauses := rfl
@[simp] theorem blockReset_txLog (s : State) :
    (blockReset s).txLog = s.txLog := rfl
@[simp] theorem blockReset_schedule (s : State) :
    (blockReset s).schedule = s.schedule := rfl
@[simp] theorem blockReset_hostOps (s : State) :
    (blockReset s).hostOps = s.hostOps := rfl
@[simp] theorem blockReset_reads (s : State) :
    (blockReset s).reads = s.reads := rfl
@[simp] theorem blockReset_draws (s : State) :
    (blockReset s).draws = s.draws := rfl

/-! ### withQueuedWords -/

@[simp] theorem withQueuedWords_cfg (s : State) (ws : List Word) :
    (withQueuedWords s ws).cfg = s.cfg := rfl
@[simp] theorem withQueuedWords_fb (s : State) (ws : List Word) :
    (withQueuedWords s ws).fb = s.fb := rfl
@[simp] theorem withQueuedWords_cursorX (s : State) (ws : List Word) :
    (withQueuedWords s ws).cursorX = s.cursorX := rfl
@[simp] theorem withQueuedWords_cursorY (s : State) (ws : List Word) :
    (withQueuedWords s ws).cursorY = s.cursorY := rfl
@[simp] theorem withQueuedWords_ctrlState (s : State) (ws : List Word) :
    (withQueuedWords s ws).ctrlState = s.ctrlState := rfl
@[simp] theorem withQueuedWords_queue (s : State) (ws : List Word) :
    (withQueuedWords s ws).queue = ws.take s.cfg.cmdqDepth := rfl
@[simp] theorem withQueuedWords_phase (s : State) (ws : List Word) :
    (withQueuedWords s ws).phase = .idle := rfl
@[simp] theorem withQueuedWords_result (s : State) (ws : List Word) :
    (withQueuedWords s ws).result = s.result := rfl
@[simp] theorem withQueuedWords_doneCount (s : State) (ws : List Word) :
    (withQueuedWords s ws).doneCount = s.doneCount := rfl
@[simp] theorem withQueuedWords_err (s : State) (ws : List Word) :
    (withQueuedWords s ws).err = s.err := rfl
@[simp] theorem withQueuedWords_resetLine (s : State) (ws : List Word) :
    (withQueuedWords s ws).resetLine = s.resetLine := rfl
@[simp] theorem withQueuedWords_held (s : State) (ws : List Word) :
    (withQueuedWords s ws).held = s.held := rfl
@[simp] theorem withQueuedWords_txAnswers (s : State) (ws : List Word) :
    (withQueuedWords s ws).txAnswers = s.txAnswers := rfl
@[simp] theorem withQueuedWords_pauses (s : State) (ws : List Word) :
    (withQueuedWords s ws).pauses = s.pauses := rfl
@[simp] theorem withQueuedWords_txLog (s : State) (ws : List Word) :
    (withQueuedWords s ws).txLog = s.txLog := rfl
@[simp] theorem withQueuedWords_schedule (s : State) (ws : List Word) :
    (withQueuedWords s ws).schedule = [] := rfl
@[simp] theorem withQueuedWords_hostOps (s : State) (ws : List Word) :
    (withQueuedWords s ws).hostOps = s.hostOps := rfl
@[simp] theorem withQueuedWords_reads (s : State) (ws : List Word) :
    (withQueuedWords s ws).reads = s.reads := rfl
@[simp] theorem withQueuedWords_draws (s : State) (ws : List Word) :
    (withQueuedWords s ws).draws = s.draws := rfl

end Sys2Proof.Machine
end

