-- ==== Sys2Proof/Laws/Memory.lean ====
section
/-! SUPPORT. The laws of framebuffer memory: a read after a write, what a write leaves alone, and that every memory operation keeps
the canonical form and the bound on addresses. -/
namespace Sys2Proof.Machine

/-! ### Reads -/

@[simp] theorem read_nil (a : Nat) : Memory.read [] a = 0 := rfl

theorem read_erase_same (m : Memory) (a : Nat) : Memory.read (Memory.erase m a) a = 0 := by
  induction m with
  | nil => rfl
  | cons c m ih =>
    by_cases h : c.1 = a
    · simpa [Memory.erase, h] using ih
    · simpa [Memory.erase, h, Memory.read] using ih

theorem read_erase_other (m : Memory) (a b : Nat) (h : b ≠ a) :
    Memory.read (Memory.erase m a) b = Memory.read m b := by
  induction m with
  | nil => rfl
  | cons c m ih =>
    by_cases hc : c.1 = a
    · have : c.1 ≠ b := fun e => h (e.symm.trans hc)
      simpa [Memory.erase, hc, Memory.read, h.symm] using ih
    · simp only [Memory.erase, bne_iff_ne, ne_eq, hc, not_false_eq_true, List.filter_cons_of_pos, Memory.read]
      simp only [Memory.erase] at ih
      rw [ih]

theorem read_insert_other (m : Memory) (a b : Nat) (v : Byte) (h : b ≠ a) :
    Memory.read (Memory.insert m a v) b = Memory.read m b := by
  induction m with
  | nil => simp [Memory.insert, Memory.read, h.symm]
  | cons c m ih =>
    simp only [Memory.insert]
    split
    · simp [Memory.read, h.symm]
    · simp [Memory.read, ih]

theorem read_insert_same (m : Memory) (a : Nat) (v : Byte) (h : ∀ c ∈ m, c.1 ≠ a) :
    Memory.read (Memory.insert m a v) a = v := by
  induction m with
  | nil => simp [Memory.insert, Memory.read]
  | cons c m ih =>
    simp only [List.mem_cons, forall_eq_or_imp] at h
    simp only [Memory.insert]
    split
    · simp [Memory.read]
    · simp [Memory.read, h.1, ih h.2]

theorem mem_erase {m : Memory} {a : Nat} {c : Host.Cell} : c ∈ Memory.erase m a ↔ c ∈ m ∧ c.1 ≠ a := by
  simp [Memory.erase]

theorem read_write_same (m : Memory) (a : Nat) (v : Byte) : Memory.read (Memory.write m a v) a = v := by
  unfold Memory.write
  split
  · next h => rw [read_erase_same, h]
  · exact read_insert_same _ _ _ fun c hc => (mem_erase.mp hc).2

theorem read_write_other (m : Memory) (a b : Nat) (v : Byte) (h : b ≠ a) :
    Memory.read (Memory.write m a v) b = Memory.read m b := by
  unfold Memory.write
  split
  · exact read_erase_other m a b h
  · rw [read_insert_other _ _ _ _ h, read_erase_other m a b h]

/-- Everything a write does to a read. -/
theorem read_write (m : Memory) (a b : Nat) (v : Byte) :
    Memory.read (Memory.write m a v) b = if b = a then v else Memory.read m b := by
  split
  · next h => rw [h, read_write_same]
  · next h => exact read_write_other m a b v h

theorem read_of_not_mem (m : Memory) (a : Nat) (h : ∀ c ∈ m, c.1 ≠ a) : Memory.read m a = 0 := by
  induction m with
  | nil => rfl
  | cons c m ih =>
    simp only [List.mem_cons, forall_eq_or_imp] at h
    simp [Memory.read, h.1, ih h.2]

/-! ### The canonical form -/

theorem wf_iff {m : Memory} :
    Memory.wf m = true ↔ m.Pairwise (fun a b => a.1 < b.1) ∧ ∀ c ∈ m, c.2 ≠ 0 := by
  simp [Memory.wf]

theorem wf_nil : Memory.wf [] = true := rfl

theorem erase_wf {m : Memory} (a : Nat) (h : Memory.wf m = true) : Memory.wf (Memory.erase m a) = true := by
  rw [wf_iff] at *
  exact ⟨h.1.filter _, fun c hc => h.2 c (mem_erase.mp hc).1⟩

theorem mem_insert {m : Memory} {a : Nat} {v : Byte} {c : Host.Cell} :
    c ∈ Memory.insert m a v ↔ c = (a, v) ∨ c ∈ m := by
  induction m with
  | nil => simp [Memory.insert]
  | cons d m ih =>
    simp only [Memory.insert]
    split
    · simp
    · simp only [List.mem_cons, ih]
      exact or_left_comm

theorem insert_wf {m : Memory} {a : Nat} {v : Byte} (h : Memory.wf m = true) (ha : ∀ c ∈ m, c.1 ≠ a) (hv : v ≠ 0) :
    Memory.wf (Memory.insert m a v) = true := by
  rw [wf_iff] at *
  refine ⟨?_, fun c hc => ?_⟩
  · obtain ⟨hp, -⟩ := h
    induction m with
    | nil => simp [Memory.insert]
    | cons d m ih =>
      simp only [List.mem_cons, forall_eq_or_imp] at ha
      obtain ⟨hd, hm⟩ := List.pairwise_cons.mp hp
      simp only [Memory.insert]
      split
      · next hlt =>
        refine List.pairwise_cons.mpr ⟨fun c hc => ?_, hp⟩
        rcases List.mem_cons.mp hc with rfl | hc
        · exact hlt
        · exact Nat.lt_trans hlt (hd c hc)
      · next hge =>
        refine List.pairwise_cons.mpr ⟨fun c hc => ?_, ih ha.2 hm⟩
        rcases mem_insert.mp hc with rfl | hc
        · exact Nat.lt_of_le_of_ne (Nat.le_of_not_lt hge) ha.1
        · exact hd c hc
  · rcases mem_insert.mp hc with rfl | hc
    · exact hv
    · exact h.2 c hc

/-- A write keeps the canonical form. -/
theorem write_wf {m : Memory} (a : Nat) (v : Byte) (h : Memory.wf m = true) :
    Memory.wf (Memory.write m a v) = true := by
  unfold Memory.write
  split
  · exact erase_wf a h
  · next hv => exact insert_wf (erase_wf a h) (fun c hc => (mem_erase.mp hc).2) hv

/-- A write below a bound keeps every address below it. -/
theorem write_bound {m : Memory} {a n : Nat} {v : Byte} (ha : a < n) (h : ∀ c ∈ m, c.1 < n) :
    ∀ c ∈ Memory.write m a v, c.1 < n := by
  intro c hc
  unfold Memory.write at hc
  split at hc
  · exact h c (mem_erase.mp hc).1
  · rcases mem_insert.mp hc with rfl | hc
    · exact ha
    · exact h c (mem_erase.mp hc).1

/-! ### Whole-memory loops -/

theorem mem_tabulate {n : Nat} {f : Nat → Byte} {c : Host.Cell} :
    c ∈ Memory.tabulate n f ↔ c.1 < n ∧ f c.1 ≠ 0 ∧ c.2 = f c.1 := by
  simp only [Memory.tabulate, List.mem_filterMap, List.mem_range]
  constructor
  · rintro ⟨i, hi, h⟩
    split at h
    · cases h
    · next hf => cases h; exact ⟨hi, hf, rfl⟩
  · rintro ⟨hi, hf, he⟩
    exact ⟨c.1, hi, by rw [if_neg hf, ← he]⟩

theorem tabulate_wf (n : Nat) (f : Nat → Byte) : Memory.wf (Memory.tabulate n f) = true := by
  rw [wf_iff]
  refine ⟨?_, fun c hc => ?_⟩
  · unfold Memory.tabulate
    refine List.pairwise_filterMap.mpr (List.pairwise_lt_range.imp ?_)
    intro i j hij c hc d hd
    split at hc <;> split at hd <;> simp_all
    rw [← hc, ← hd]
    exact hij
  · obtain ⟨-, hf, he⟩ := mem_tabulate.mp hc
    rw [he]
    exact hf

theorem read_eq_of_mem {m : Memory} (h : Memory.wf m = true) {c : Host.Cell} (hc : c ∈ m) :
    Memory.read m c.1 = c.2 := by
  rw [wf_iff] at h
  obtain ⟨hp, -⟩ := h
  induction m with
  | nil => simp at hc
  | cons d m ih =>
    obtain ⟨hd, hm⟩ := List.pairwise_cons.mp hp
    rcases List.mem_cons.mp hc with rfl | hc
    · simp [Memory.read]
    · have := hd c hc
      simp [Memory.read, Nat.ne_of_lt this, ih hc hm]

/-- Everything a tabulated memory reads as. -/
theorem read_tabulate (n : Nat) (f : Nat → Byte) (a : Nat) :
    Memory.read (Memory.tabulate n f) a = if a < n then f a else 0 := by
  by_cases h : a < n ∧ f a ≠ 0
  · have := read_eq_of_mem (tabulate_wf n f) (c := (a, f a)) (mem_tabulate.mpr ⟨h.1, h.2, rfl⟩)
    simpa [h.1] using this
  · rw [read_of_not_mem]
    · split
      · next hn => by_contra hf; exact h ⟨hn, fun e => hf e.symm⟩
      · rfl
    · rintro c hc rfl
      obtain ⟨h1, h2, -⟩ := mem_tabulate.mp hc
      exact h ⟨h1, h2⟩

/-! ### Canonical memories are equal when they read the same -/

theorem mem_iff_read {m : Memory} (h : Memory.wf m = true) {a : Nat} {v : Byte} (hv : v ≠ 0) :
    (a, v) ∈ m ↔ Memory.read m a = v := by
  constructor
  · exact fun hc => read_eq_of_mem h hc
  · intro hr
    by_contra hc
    refine hv ?_
    rw [← hr]
    refine read_of_not_mem m a fun c hm he => hc ?_
    have := read_eq_of_mem h hm
    rw [he, hr] at this
    rw [← he, this]
    exact hm

end Sys2Proof.Machine
end

