-- ==== Sys2Proof/Laws/Pixels.lean ====
section
/-! SUPPORT. What SetPx and Paint do to pixels, bytes and the canonical form (R31, R140, R141). -/
namespace Sys2Proof.Machine

/-- The constraints of R8 that a configuration carries (R9). -/
theorem config_legal (c : Config) :
    1 ≤ c.w ∧ c.w ≤ 65535 ∧ 8 ≤ c.h ∧ c.h ≤ 65528 ∧ c.h % 8 = 0 ∧ c.w * c.h / 8 ≤ 65536 ∧ 1 ≤ c.arcStep
      ∧ c.arcStep ≤ 255 ∧ 2 ≤ c.cmdqDepth := by
  have h := c.legal
  simp only [ConfigData.isLegal, Bool.and_eq_true, decide_eq_true_eq] at h
  tauto

/-- FBSIZE is W times the number of pages. -/
theorem fbSize_eq (c : Config) : c.fbSize = c.w * (c.h / 8) := by
  have h8 := (config_legal c).2.2.2.2.1
  unfold Config.fbSize
  rw [Nat.mul_div_assoc _ (Nat.dvd_of_mod_eq_zero h8)]

theorem pixelByte_lt {c : Config} {x y : Nat} (hx : x < c.w) (hy : y < c.h) : pixelByte c x y < c.fbSize := by
  have h8 := (config_legal c).2.2.2.2.1
  have hp : y / 8 + 1 ≤ c.h / 8 := by omega
  have := Nat.mul_le_mul_right c.w hp
  rw [fbSize_eq, Nat.mul_comm c.w]
  unfold pixelByte
  rw [Nat.add_mul] at this
  omega

theorem pixelByte_inj {c : Config} {x y x' y' : Nat} (hx : x < c.w) (hx' : x' < c.w)
    (h : pixelByte c x y = pixelByte c x' y') : x = x' ∧ y / 8 = y' / 8 := by
  unfold pixelByte at h
  have hm := congrArg (· % c.w) h
  simp only [Nat.mul_add_mod_self_right, Nat.mod_eq_of_lt hx, Nat.mod_eq_of_lt hx'] at hm
  refine ⟨hm, ?_⟩
  subst hm
  exact Nat.eq_of_mul_eq_mul_right (Nat.lt_of_le_of_lt (Nat.zero_le _) hx) (Nat.add_right_cancel h)

/-- A painted byte, bit by bit (R140). -/
theorem paintBit_getLsbD (b : Byte) {k j : Nat} (hk : k < 8) (hj : j < 8) (c : Colour) :
    (paintBit b k c).getLsbD j = if j = k then c.bit else b.getLsbD j := by
  cases c <;> simp only [paintBit, Colour.bit] <;> interval_cases k <;> interval_cases j <;> simp [hj]

/-- A pixel of a memory (GetPx on FB alone). -/
def memPx (c : Config) (m : Memory) (x y : Nat) : Bool := (Memory.read m (pixelByte c x y)).getLsbD (y % 8)

theorem getPx_eq_memPx (s : State) (x y : Nat) : getPx s x y = memPx s.cfg s.fb x y := rfl

theorem onScreen_iff {c : Config} {p : Point} :
    onScreen c p = true ↔ ∃ x y : Nat, x < c.w ∧ y < c.h ∧ p = ((x : Int), (y : Int)) := by
  obtain ⟨px, py⟩ := p
  simp only [onScreen, Bool.and_eq_true, decide_eq_true_eq]
  constructor
  · rintro ⟨⟨⟨h1, h2⟩, h3⟩, h4⟩
    refine ⟨px.toNat, py.toNat, by omega, by omega, ?_⟩
    rw [Int.toNat_of_nonneg h1, Int.toNat_of_nonneg h3]
  · rintro ⟨x, y, hx, hy, h⟩
    cases h
    omega

theorem setPx_onScreen {cfg : Config} {x y : Nat} (hx : x < cfg.w) (hy : y < cfg.h) (c : Colour) (m : Memory) :
    setPx cfg c m ((x : Int), (y : Int)) =
      Memory.write m (pixelByte cfg x y) (paintBit (Memory.read m (pixelByte cfg x y)) (y % 8) c) := by
  have : onScreen cfg ((x : Int), (y : Int)) = true := onScreen_iff.mpr ⟨x, y, hx, hy, rfl⟩
  simp [setPx, this]

theorem setPx_offScreen {cfg : Config} {p : Point} (h : onScreen cfg p = false) (c : Colour) (m : Memory) :
    setPx cfg c m p = m := by simp [setPx, h]

/-- SetPx, pixel by pixel. -/
theorem memPx_setPx (cfg : Config) (c : Colour) (m : Memory) (p : Point) {x y : Nat} (hx : x < cfg.w) (hy : y < cfg.h) :
    memPx cfg (setPx cfg c m p) x y = if ((x : Int), (y : Int)) = p then c.bit else memPx cfg m x y := by
  cases hon : onScreen cfg p with
  | false =>
    rw [setPx_offScreen hon, if_neg]
    rintro rfl
    simp [onScreen_iff.mpr ⟨x, y, hx, hy, rfl⟩] at hon
  | true =>
    obtain ⟨x', y', hx', hy', rfl⟩ := onScreen_iff.mp hon
    rw [setPx_onScreen hx' hy', memPx, read_write, memPx]
    by_cases hb : pixelByte cfg x y = pixelByte cfg x' y'
    · obtain ⟨rfl, hy8⟩ := pixelByte_inj hx hx' hb
      rw [if_pos hb, paintBit_getLsbD _ (Nat.mod_lt _ (by decide)) (Nat.mod_lt _ (by decide)), hb]
      refine if_congr ⟨fun h => ?_, fun h => ?_⟩ rfl rfl
      · have : y = y' := by omega
        rw [this]
      · simp only [Prod.mk.injEq, Int.natCast_inj, true_and] at h
        rw [h]
    · rw [if_neg hb, if_neg]
      intro h
      simp only [Prod.mk.injEq, Int.natCast_inj] at h
      exact hb (by rw [h.1, h.2])

/-- SetPx changes no byte at or above FBSIZE. -/
theorem read_setPx_above (cfg : Config) (c : Colour) (m : Memory) (p : Point) {a : Nat} (ha : cfg.fbSize ≤ a) :
    Memory.read (setPx cfg c m p) a = Memory.read m a := by
  cases hon : onScreen cfg p with
  | false => rw [setPx_offScreen hon]
  | true =>
    obtain ⟨x, y, hx, hy, rfl⟩ := onScreen_iff.mp hon
    rw [setPx_onScreen hx hy, read_write_other]
    have := pixelByte_lt hx hy
    omega

theorem setPx_wf (cfg : Config) (c : Colour) {m : Memory} (p : Point) (h : Memory.wf m = true) :
    Memory.wf (setPx cfg c m p) = true := by
  unfold setPx
  split
  · exact write_wf _ _ h
  · exact h

theorem setPx_bound (cfg : Config) (c : Colour) {m : Memory} (p : Point) (h : ∀ d ∈ m, d.1 < cfg.fbSize) :
    ∀ d ∈ setPx cfg c m p, d.1 < cfg.fbSize := by
  cases hon : onScreen cfg p with
  | false => rwa [setPx_offScreen hon]
  | true =>
    obtain ⟨x, y, hx, hy, rfl⟩ := onScreen_iff.mp hon
    rw [setPx_onScreen hx hy]
    exact write_bound (pixelByte_lt hx hy) h

/-! ### Paint -/

theorem memPx_foldl_setPx (cfg : Config) (c : Colour) (P : List Point) (m : Memory) {x y : Nat} (hx : x < cfg.w)
    (hy : y < cfg.h) :
    memPx cfg (P.foldl (setPx cfg c) m) x y = if ((x : Int), (y : Int)) ∈ P then c.bit else memPx cfg m x y := by
  induction P generalizing m with
  | nil => simp
  | cons p P ih =>
    rw [List.foldl_cons, ih, memPx_setPx cfg c m p hx hy]
    by_cases h1 : ((x : Int), (y : Int)) ∈ P
    · simp [h1]
    · by_cases h2 : ((x : Int), (y : Int)) = p <;> simp [h1, h2]

/-- Everything Paint does to a pixel (R141). -/
theorem getPx_paint (s : State) (P : List Point) (c : Colour) {x y : Nat} (hx : x < s.cfg.w) (hy : y < s.cfg.h) :
    getPx (paint s P c) x y = if ((x : Int), (y : Int)) ∈ P then c.bit else getPx s x y :=
  memPx_foldl_setPx s.cfg c P s.fb hx hy

theorem read_paint_above (s : State) (P : List Point) (c : Colour) {a : Nat} (ha : s.cfg.fbSize ≤ a) :
    Memory.read (paint s P c).fb a = Memory.read s.fb a := by
  rw [paint_fb]
  induction P generalizing s with
  | nil => rfl
  | cons p P ih =>
    rw [List.foldl_cons]
    have := ih { s with fb := setPx s.cfg c s.fb p } ha
    rw [this, read_setPx_above s.cfg c s.fb p ha]

theorem paint_wf {s : State} (P : List Point) (c : Colour) (h : Memory.wf s.fb = true) :
    Memory.wf (paint s P c).fb = true := by
  rw [paint_fb]
  exact List.foldlRecOn P (setPx s.cfg c) (motive := fun m => Memory.wf m = true) h
    fun m hm p _ => setPx_wf s.cfg c p hm

theorem paint_bound {s : State} (P : List Point) (c : Colour) (h : ∀ d ∈ s.fb, d.1 < s.cfg.fbSize) :
    ∀ d ∈ (paint s P c).fb, d.1 < s.cfg.fbSize := by
  rw [paint_fb]
  exact List.foldlRecOn P (setPx s.cfg c) (motive := fun m => ∀ d ∈ m, d.1 < s.cfg.fbSize) h
    fun m hm p _ => setPx_bound s.cfg c p hm

end Sys2Proof.Machine
end

