-- ==== Sys2Proof/Laws/Ops.lean ====
section
/-! SUPPORT. What the shared operations can do, each said once: a completion (R272), the running of a controller descriptor
(R273) against the Transport's answers, PutGlyph (R202). -/
namespace Sys2Proof.Machine

/-! ### RESULT -/

@[simp] theorem resultCode_packResult (d : Half) (v : Byte) (st : Status) :
    resultCode (packResult d v st) = statusCode st := by
  ext i hi
  simp only [resultCode, packResult, BitVec.getElem_extractLsb', BitVec.getLsbD_append]
  rw [if_pos (by omega), Nat.zero_add, BitVec.getLsbD_eq_getElem hi]

@[simp] theorem resultValue_packResult (d : Half) (v : Byte) (st : Status) : resultValue (packResult d v st) = v := by
  ext i hi
  simp only [resultValue, packResult, BitVec.getElem_extractLsb', BitVec.getLsbD_append]
  rw [if_neg (by omega), if_pos (by omega), Nat.add_sub_cancel_left, BitVec.getLsbD_eq_getElem hi]

@[simp] theorem resultDone_packResult (d : Half) (v : Byte) (st : Status) : resultDone (packResult d v st) = d := by
  ext i hi
  simp only [resultDone, packResult, BitVec.getElem_extractLsb', BitVec.getLsbD_append]
  rw [if_neg (by omega), if_neg (by omega)]
  rw [show 16 + i - 8 - 8 = i by omega, BitVec.getLsbD_eq_getElem hi]

/-- A completion of a state whose counters are those of `s` is one completion counted from `s`. -/
theorem completed_complete {s t : State} (hd : t.doneCount = s.doneCount) (he : t.err = s.err) (st : Status) (v : Byte) :
    Completed s (complete t st v) st v := by
  refine ⟨rfl, ?_, ?_, ?_, ?_, ?_⟩ <;> simp [hd, he]

/-! ### Controller descriptors -/

/-- What a request does to a running descriptor, whichever it is: issued, it may take an answer or a pause, and then the rest runs,
or it failed, which only an answer can say, or the engine waits, for an answer when none is left, and never in a TxReset (R52). -/
theorem runProg_tx (f : Option CtrlState) (r : TxRequest) (rest : List Micro) (s : State) :
    ∃ as ps, runProg f (.tx r :: rest) s = runProg f rest { issue s r with txAnswers := as, pauses := ps }
      ∨ (hasAnswer r = true
          ∧ runProg f (.tx r :: rest) s = busFailure f { issue s r with txAnswers := as, pauses := ps })
      ∨ ((hasAnswer r = true → as = []) ∧ (∀ active, r ≠ .reset active)
          ∧ runProg f (.tx r :: rest) s = { issue s r with
              txAnswers := as, pauses := ps, phase := .exec { awaiting := r, rest := rest, failTo := f } }) := by
  obtain ⟨cfg, fb, cx, cy, cs, q, ph, res, dc, err, line, held, as, ps, log, sch, ops, reads, draws⟩ := s
  cases r with
  | cmd b =>
    match as with
    | [] => exact ⟨[], ps, .inr (.inr ⟨fun _ => rfl, by simp, rfl⟩)⟩
    | .ok :: as => exact ⟨as, ps, .inl rfl⟩
    | .busError :: as => exact ⟨as, ps, .inr (.inl ⟨rfl, rfl⟩)⟩
  | data bs =>
    match as with
    | [] => exact ⟨[], ps, .inr (.inr ⟨fun _ => rfl, by simp, rfl⟩)⟩
    | .ok :: as => exact ⟨as, ps, .inl rfl⟩
    | .busError :: as => exact ⟨as, ps, .inr (.inl ⟨rfl, rfl⟩)⟩
  | reset active => exact ⟨as, ps, .inl rfl⟩
  | delay ms =>
    match ps with
    | [] => exact ⟨as, [], .inl rfl⟩
    | false :: ps => exact ⟨as, ps, .inl rfl⟩
    | true :: ps => exact ⟨as, ps, .inr (.inr ⟨(fun e => by cases e), by simp, rfl⟩)⟩

/-- No controller descriptor touches the host side or the cursor. -/
theorem runProg_frame (f : Option CtrlState) (p : List Micro) (s : State) :
    SameHost s (runProg f p s) ∧ SameCursor s (runProg f p s) := by
  induction p generalizing s with
  | nil => simp [runProg, SameHost, SameCursor]
  | cons m p ih =>
    cases m with
    | setCtrl c => exact ih { s with ctrlState := c }
    | clearFb => exact ih (fillFb s 0)
    | tx r =>
      obtain ⟨as, ps, h | ⟨-, h⟩ | ⟨-, -, h⟩⟩ := runProg_tx f r p s <;> rw [h]
      · exact ih { issue s r with txAnswers := as, pauses := ps }
      · simp [SameHost, SameCursor]
      · simp [SameHost, SameCursor]

/-- A controller descriptor completes OK, completes BUS_ERROR, or waits for the Transport with nothing posted. -/
theorem runProg_cases (f : Option CtrlState) (p : List Micro) (s : State) :
    Completed s (runProg f p s) .ok 0 ∨ Completed s (runProg f p s) .busError 0 ∨ Waiting s (runProg f p s) := by
  induction p generalizing s with
  | nil => exact .inl (completed_complete rfl rfl .ok 0)
  | cons m p ih =>
    cases m with
    | setCtrl c => exact ih { s with ctrlState := c }
    | clearFb => exact ih (fillFb s 0)
    | tx r =>
      obtain ⟨as, ps, h | ⟨-, h⟩ | ⟨-, -, h⟩⟩ := runProg_tx f r p s <;> rw [h]
      · exact ih { issue s r with txAnswers := as, pauses := ps }
      · exact .inr (.inl (completed_complete rfl rfl .busError 0))
      · exact .inr (.inr ⟨⟨_, rfl⟩, rfl, rfl, rfl⟩)

/-- A TxCmd the Transport has answered OK is sent and the rest runs. -/
theorem runProg_cmd_ok (f : Option CtrlState) (b : Byte) (rest : List Micro) (s : State) (as : List TxAnswer)
    (h : s.txAnswers = .ok :: as) :
    runProg f (.tx (.cmd b) :: rest) s = runProg f rest { issue s (.cmd b) with txAnswers := as } := by
  simp [runProg, finish, h]

/-- SendSeq with every byte answered OK: the bytes go out in order and the rest runs (R221). -/
theorem runProg_sendSeq_ok (f : Option CtrlState) (bs : List Byte) (rest : List Micro) (s : State) (as : List TxAnswer)
    (h : s.txAnswers = okAnswers bs.length ++ as) :
    runProg f (sendSeq bs ++ rest) s
      = runProg f rest { s with txAnswers := as, txLog := s.txLog ++ cmds bs } := by
  induction bs generalizing s with
  | nil =>
    have : s.txAnswers = as := by simpa [okAnswers] using h
    subst this
    simp [sendSeq, cmds]
  | cons b bs ih =>
    have h' : s.txAnswers = .ok :: (okAnswers bs.length ++ as) := by
      simpa [okAnswers, List.replicate_succ] using h
    rw [sendSeq, List.map_cons, List.cons_append, runProg_cmd_ok _ _ _ _ _ h']
    rw [show List.map (fun b => Micro.tx (.cmd b)) bs = sendSeq bs from rfl]
    rw [ih _ rfl]
    simp [issue, lineAfter, cmds]

/-- SendSeq stops at the first BUS_ERROR: no further request is issued (R221). -/
theorem runProg_sendSeq_fail (f : Option CtrlState) (bs : List Byte) (rest : List Micro) (s : State)
    (as : List TxAnswer) (k : Nat) (hk : k < bs.length) (h : s.txAnswers = okAnswers k ++ .busError :: as) :
    runProg f (sendSeq bs ++ rest) s
      = busFailure f { s with txAnswers := as, txLog := s.txLog ++ cmds (bs.take (k + 1)) } := by
  induction bs generalizing s k with
  | nil => simp at hk
  | cons b bs ih =>
    cases k with
    | zero =>
      have h' : s.txAnswers = .busError :: as := by simpa [okAnswers] using h
      simp [sendSeq, runProg, finish, h', issue, lineAfter, cmds]
    | succ k =>
      have h' : s.txAnswers = .ok :: (okAnswers k ++ .busError :: as) := by
        simpa [okAnswers, List.replicate_succ] using h
      rw [sendSeq, List.map_cons, List.cons_append, runProg_cmd_ok _ _ _ _ _ h']
      rw [show List.map (fun b => Micro.tx (.cmd b)) bs = sendSeq bs from rfl]
      rw [ih _ k (Nat.lt_of_succ_lt_succ hk) rfl]
      simp [issue, lineAfter, cmds]

/-- SendSeq with fewer answers ready than bytes waits for the next one (R52). -/
theorem runProg_sendSeq_wait (f : Option CtrlState) (bs : List Byte) (rest : List Micro) (s : State) (k : Nat)
    (hk : k < bs.length) (h : s.txAnswers = okAnswers k) :
    runProg f (sendSeq bs ++ rest) s
      = { s with
          txAnswers := []
          txLog := s.txLog ++ cmds (bs.take (k + 1))
          phase := .exec
            { awaiting := .cmd (bs.getD k 0), rest := sendSeq (bs.drop (k + 1)) ++ rest, failTo := f } } := by
  induction bs generalizing s k with
  | nil => simp at hk
  | cons b bs ih =>
    cases k with
    | zero =>
      have h' : s.txAnswers = [] := by simpa [okAnswers] using h
      simp [sendSeq, runProg, finish, h', issue, lineAfter, cmds]
    | succ k =>
      have h' : s.txAnswers = .ok :: okAnswers k := by simpa [okAnswers, List.replicate_succ] using h
      rw [sendSeq, List.map_cons, List.cons_append, runProg_cmd_ok _ _ _ _ _ h']
      rw [show List.map (fun b => Micro.tx (.cmd b)) bs = sendSeq bs from rfl]
      rw [ih _ k (Nat.lt_of_succ_lt_succ hk) rfl]
      simp [issue, lineAfter, cmds]

/-- What a controller descriptor leaves keeps the phase's part of the invariant: the reset line ends released, or a RESET waits. -/
theorem runProg_phaseOk (f : Option CtrlState) (p : List Micro) (s : State) (h : lineSafe s.resetLine p) :
    PhaseOk (runProg f p s) := by
  induction p generalizing s with
  | nil => simpa [runProg, PhaseOk, lineSafe] using h
  | cons m p ih =>
    cases m with
    | setCtrl c => exact ih { s with ctrlState := c } h
    | clearFb => exact ih (fillFb s 0) h
    | tx r =>
      have hl : (hasAnswer r = true → lineAfter s.resetLine r = false) ∧ lineSafe (lineAfter s.resetLine r) p := by
        cases r <;> simp only [lineSafe, hasAnswer, lineAfter] at h ⊢
        · exact ⟨fun _ => h.1, h.2⟩
        · exact ⟨fun _ => h.1, h.2⟩
        · exact ⟨(fun e => by cases e), h⟩
        · exact ⟨(fun e => by cases e), h⟩
      obtain ⟨as, ps, e | ⟨ha, e⟩ | ⟨he, hr, e⟩⟩ := runProg_tx f r p s <;> rw [e]
      · exact ih { issue s r with txAnswers := as, pauses := ps } hl.2
      · exact hl.1 ha
      · exact ⟨fun ha => ⟨he ha, hl.1 ha⟩, hr, hl.2⟩

/-- The phase a controller descriptor starts in does not matter: it leaves its own (R272, R273). -/
theorem runProg_phase (f : Option CtrlState) (p : List Micro) (s : State) (ph : Phase) :
    runProg f p { s with phase := ph } = runProg f p s := by
  induction p generalizing s with
  | nil => rfl
  | cons m p ih =>
    cases m with
    | setCtrl c => exact ih { s with ctrlState := c }
    | clearFb => exact ih (fillFb s 0)
    | tx r =>
      obtain ⟨as, hs⟩ : ∃ as, s.txAnswers = as := ⟨_, rfl⟩
      obtain ⟨ps, hp⟩ : ∃ ps, s.pauses = ps := ⟨_, rfl⟩
      cases r with
      | cmd b =>
        match as with
        | [] => simp [runProg, finish, hs, issue]
        | .ok :: as => simpa [runProg, finish, hs] using ih { issue s (.cmd b) with txAnswers := as }
        | .busError :: as => simp [runProg, finish, hs, busFailure, complete, issue]
      | data bs =>
        match as with
        | [] => simp [runProg, finish, hs, issue]
        | .ok :: as => simpa [runProg, finish, hs] using ih { issue s (.data bs) with txAnswers := as }
        | .busError :: as => simp [runProg, finish, hs, busFailure, complete, issue]
      | reset active => exact ih (issue s (.reset active))
      | delay ms =>
        match ps with
        | [] => simpa [runProg, finish, hp, issue] using ih (issue s (.delay ms))
        | false :: ps => simpa [runProg, finish, hp] using ih { issue s (.delay ms) with pauses := ps }
        | true :: ps => simp [runProg, finish, hp, issue]

/-- A controller descriptor keeps FB canonical and inside FBSIZE: it writes it only by clearing it (R224). -/
theorem runProg_fbOk (f : Option CtrlState) (p : List Micro) (s : State) (h : FbOk s) : FbOk (runProg f p s) := by
  induction p generalizing s with
  | nil => exact h
  | cons m p ih =>
    cases m with
    | setCtrl c => exact ih { s with ctrlState := c } h
    | clearFb => exact ih (fillFb s 0) ⟨tabulate_wf _ _, fun c hc => (mem_tabulate.mp hc).1⟩
    | tx r =>
      obtain ⟨as, ps, e | ⟨-, e⟩ | ⟨-, -, e⟩⟩ := runProg_tx f r p s <;> rw [e]
      · exact ih { issue s r with txAnswers := as, pauses := ps } h
      · exact h
      · exact h

/-- An answer that comes touches neither the host side nor the cursor, whatever it says. -/
theorem takeAnswer_frame (w : Wait) (a : TxAnswer) (s : State) :
    SameHost s (takeAnswer w a s) ∧ SameCursor s (takeAnswer w a s) := by
  cases a
  · exact runProg_frame w.failTo w.rest s
  · simp [takeAnswer, SameHost, SameCursor]

/-- In Exec the engine runs on after a TxDelay, takes an answer that is ready, or waits as it is (R52, R273). -/
theorem resume_cases (w : Wait) (s : State) :
    (hasAnswer w.awaiting = false ∧ resume w s = runProg w.failTo w.rest s)
      ∨ (hasAnswer w.awaiting = true ∧ s.txAnswers = [] ∧ resume w s = s)
      ∨ (hasAnswer w.awaiting = true
          ∧ ∃ a as, s.txAnswers = a :: as ∧ resume w s = takeAnswer w a { s with txAnswers := as }) := by
  unfold resume
  cases hasAnswer w.awaiting
  · exact .inl ⟨rfl, rfl⟩
  · cases s.txAnswers with
    | nil => exact .inr (.inl ⟨rfl, rfl, rfl⟩)
    | cons a as => exact .inr (.inr ⟨rfl, a, as, rfl, rfl⟩)

theorem sendSeq_lineSafe (bs : List Byte) (rest : List Micro) (h : lineSafe false rest) :
    lineSafe false (sendSeq bs ++ rest) := by
  induction bs with
  | nil => simpa [sendSeq] using h
  | cons b bs ih => exact ⟨rfl, ih⟩

theorem flushPages_lineSafe (c : Config) (m : Memory) : lineSafe false (flushPages c m) := by
  unfold flushPages
  induction List.range c.npages with
  | nil => rfl
  | cons p ps ih =>
    rw [List.flatMap_cons, List.append_assoc]
    exact sendSeq_lineSafe _ _ ⟨rfl, ih⟩

theorem initProg_lineSafe (c : Config) : lineSafe false (initProg c) := by
  unfold initProg
  rw [List.append_assoc]
  exact sendSeq_lineSafe _ _ (flushPages_lineSafe c [])

theorem resetProg_lineSafe (c : Config) (line : Bool) : lineSafe line (resetProg c) := by
  simp [resetProg, lineSafe]

/-- Either NOT_INIT with nothing else done, or the operation runs (R275). -/
theorem whenInitialized_cases (s : State) (k : State → State) :
    (s.ctrlState = .uninitialized ∧ whenInitialized s k = complete s .notInit 0)
      ∨ (s.ctrlState ≠ .uninitialized ∧ whenInitialized s k = k s) := by
  by_cases h : s.ctrlState = .uninitialized
  · exact .inl ⟨h, by simp [whenInitialized, h]⟩
  · exact .inr ⟨h, by simp [whenInitialized, h]⟩

/-! ### Text -/

/-- PutGlyph rejects exactly the glyph that would pass column W, and changes nothing but FB and cursorX (R202). -/
theorem putGlyph_cases (c : Colour) (font ch : Byte) (s : State) :
    (s.cfg.w < s.cursorX.toNat + (glyphFor s.cfg font ch).gw.toNat ∧ putGlyph c font ch s = none)
      ∨ (s.cursorX.toNat + (glyphFor s.cfg font ch).gw.toNat ≤ s.cfg.w
          ∧ putGlyph c font ch s = some
              { paint s (bitmapPoints (coord s.cursorX) (coord s.cursorY) (glyphFor s.cfg font ch).gw.toNat
                  (glyphFor s.cfg font ch).gh.toNat (glyphFor s.cfg font ch).gb) c with
                cursorX := BitVec.ofNat 16 (s.cursorX.toNat + (glyphFor s.cfg font ch).gw.toNat) }) := by
  by_cases h : s.cfg.w < s.cursorX.toNat + (glyphFor s.cfg font ch).gw.toNat
  · exact .inl ⟨h, by simp [putGlyph, h]⟩
  · exact .inr ⟨Nat.le_of_not_lt h, by simp [putGlyph, h]⟩

/-- The cursor after an accepted glyph does not wrap: it is at most W ≤ 65535 (R202). -/
theorem cursor_advance (c : Config) (x g : Nat) (h : x + g ≤ c.w) : (BitVec.ofNat 16 (x + g)).toNat = x + g := by
  have := (config_legal c).2.1
  rw [BitVec.toNat_ofNat]
  exact Nat.mod_eq_of_lt (by omega)

end Sys2Proof.Machine
end

