-- ==== Sys2Proof/Laws/PerInstr.lean ====
section
/-! SUPPORT. The per-instruction family `Framing`: the payload word count of every well-formed instruction fits in the u16 N of
its header, so the header frames the descriptor (R100, R101, R103). -/
namespace Sys2Proof.Laws.Framing

/-- The payload of a well-formed instruction has a word count that N can hold. -/
def Statement (i : Instr) : Prop := i.wf = true → i.payload.length ≤ 65535

/-- A payload of a fixed number of words fits. -/
theorem of_fixed {i : Instr} (h : i.payload.length ≤ 3) : Statement i := fun _ => Nat.le_trans h (by decide)

theorem setPixel (c : Colour) (x y : Half) : Statement (.setPixel c x y) := of_fixed (by simp [Instr.payload])
theorem fill (c : Colour) : Statement (.fill c) := of_fixed (by simp [Instr.payload])

theorem loadRaw (bytes : List Byte) : Statement (.loadRaw bytes) := by
  intro h
  simp only [Instr.wf, decide_eq_true_eq] at h
  simp only [Instr.payload, List.length_cons, length_wordsOfBytes]
  omega

theorem setCursor (x y : Half) : Statement (.setCursor x y) := of_fixed (by simp [Instr.payload])
theorem line (c : Colour) (x0 y0 x1 y1 : Half) : Statement (.line c x0 y0 x1 y1) :=
  of_fixed (by simp [Instr.payload])
theorem rect (c : Colour) (x0 y0 x1 y1 : Half) : Statement (.rect c x0 y0 x1 y1) :=
  of_fixed (by simp [Instr.payload])
theorem fillRect (c : Colour) (x0 y0 x1 y1 : Half) : Statement (.fillRect c x0 y0 x1 y1) :=
  of_fixed (by simp [Instr.payload])
theorem circle (c : Colour) (cx cy r : Half) : Statement (.circle c cx cy r) := of_fixed (by simp [Instr.payload])
theorem fillCircle (c : Colour) (cx cy r : Half) : Statement (.fillCircle c cx cy r) :=
  of_fixed (by simp [Instr.payload])
theorem arc (c : Colour) (cx cy r start sweep : Half) : Statement (.arc c cx cy r start sweep) :=
  of_fixed (by simp [Instr.payload])
theorem arcRL (c : Colour) (cx cy r start sweep : Half) : Statement (.arcRL c cx cy r start sweep) :=
  of_fixed (by simp [Instr.payload])

theorem polyline (c : Colour) (vs : List Vertex) : Statement (.polyline c vs) := by
  intro h
  simp only [Instr.wf, decide_eq_true_eq] at h
  simp only [Instr.payload, List.length_cons, List.length_map]
  omega

theorem bitmap (c : Colour) (x y w h : Half) (bytes : List Byte) : Statement (.bitmap c x y w h bytes) := by
  intro hw
  simp only [Instr.wf, Bool.and_eq_true, decide_eq_true_eq] at hw
  simp only [Instr.payload, List.length_cons, length_wordsOfBytes]
  omega

theorem writeChar (c : Colour) (font ch : Byte) : Statement (.writeChar c font ch) :=
  of_fixed (by simp [Instr.payload])

theorem writeString (c : Colour) (font : Byte) (chars : List Byte) : Statement (.writeString c font chars) := by
  intro h
  simp only [Instr.wf, decide_eq_true_eq] at h
  simp only [Instr.payload, List.length_cons, length_wordsOfBytes, divUp]
  omega

theorem init : Statement .init := of_fixed (by simp [Instr.payload])
theorem flush : Statement .flush := of_fixed (by simp [Instr.payload])
theorem setContrast (v : Byte) : Statement (.setContrast v) := of_fixed (by simp [Instr.payload])
theorem setDisplayOn (on : Bool) : Statement (.setDisplayOn on) := of_fixed (by simp [Instr.payload])
theorem invertDisplay (on : Bool) : Statement (.invertDisplay on) := of_fixed (by simp [Instr.payload])
theorem scrollR (a b : Byte) : Statement (.scrollR a b) := of_fixed (by simp [Instr.payload])
theorem scrollL (a b : Byte) : Statement (.scrollL a b) := of_fixed (by simp [Instr.payload])
theorem scrollDR (a b : Byte) : Statement (.scrollDR a b) := of_fixed (by simp [Instr.payload])
theorem scrollDL (a b : Byte) : Statement (.scrollDL a b) := of_fixed (by simp [Instr.payload])
theorem stopScroll : Statement .stopScroll := of_fixed (by simp [Instr.payload])
theorem reset : Statement .reset := of_fixed (by simp [Instr.payload])

end Sys2Proof.Laws.Framing
end

