-- ==== Sys2Proof/Tests/Slice0.lean ====
section
/-! SUPPORT. The model's own tests and the witnesses of its statements. Expected values of tests named after a vector (F1, T7, X3 ...) are
those of 95_test_vectors.md; the others are worked out by hand from the rule named. -/
namespace Sys2Proof.Tests
set_option Elab.async false
open Sys2Proof Sys2Proof.Machine

/-! ### Helpers -/

/-- The state after one instruction. -/
def after (i : Instr) (s : State) : State :=
  match exec i s with
  | .next t => t
  | .fault _ => s
  | .refused _ => s

/-- The state after n steps. -/
def steps (n : Nat) (s : State) : State :=
  match Host.Core.run Sys2Proof.core n s with
  | .next t => t
  | .fault _ => s
  | .refused _ => s

/-- Reset, with words in Q. -/
def queued (ws : List Word) : State := { State.reset with queue := ws }

/-- Reset, with the host to make one access. -/
def hosting (a : HostAccess) : State := { State.reset with schedule := [.host], hostOps := [a] }

/-- Reset in a controller state, the Transport with these answers ready. -/
def ready (c : CtrlState) (as : List TxAnswer) : State := { State.reset with ctrlState := c, txAnswers := as }

/-- What a table word or a descriptor decodes to, none where it is refused. -/
def read? (ws : List Word) : Option Instr :=
  match decode ws with
  | .ok (i, []) => some i
  | .ok (_, _ :: _) => none
  | .error _ => none

/-- Why a descriptor is refused. -/
def why? (ws : List Word) : Option DecodeError :=
  match decode ws with
  | .ok _ => none
  | .error e => some e

/-- Two point lists hold the same on-screen pixels of the default screen. -/
def sameSet (P Q : List Point) : Bool :=
  (P.filter (onScreen defaultConfig)).all (fun p => Q.contains p) && Q.all fun p => P.contains p

/-- An 8 × 8 screen. -/
def tinyConfig : Config := { toConfigData := { defaultData with w := 8, h := 8, cmdqDepth := 4 }, legal := by decide }

def tiny : State := { State.reset with cfg := tinyConfig }

/-! ### WellFormed refuses an ill-formed term for each of its checks -/

theorem test_wf_loadRaw_too_long (b : Byte) : (Instr.loadRaw (List.replicate 262137 b)).wf = false := by
  rw [Instr.wf, List.length_replicate]; decide +kernel

theorem test_wf_loadRaw_longest (b : Byte) : (Instr.loadRaw (List.replicate 262136 b)).wf = true := by
  rw [Instr.wf, List.length_replicate]; decide +kernel

theorem test_wf_polyline_too_long (v : Vertex) : (Instr.polyline .white (List.replicate 65535 v)).wf = false := by
  rw [Instr.wf, List.length_replicate]; decide +kernel

theorem test_wf_bitmap_byte_count : (Instr.bitmap .white 0 0 9 2 [0x80, 0x80, 0x00]).wf = false := by decide +kernel

theorem test_wf_bitmap_too_long (b : Byte) :
    (Instr.bitmap .white 0 0 32 0xFFFF (List.replicate 262140 b)).wf = false := by
  rw [Instr.wf, List.length_replicate]; decide +kernel

theorem test_wf_writeString_too_long (b : Byte) : (Instr.writeString .white 0 (List.replicate 65536 b)).wf = false := by
  rw [Instr.wf, List.length_replicate]; decide +kernel

/-! ### Decoding: every constructor, from a word written out from the encoding tables -/

theorem test_decode_setPixel : read? [0x00010101, 0x000A000A] = some (.setPixel .white 10 10)
    ∧ read? [0x00010001, 0x003F007F] = some (.setPixel .black 127 63) := by decide +kernel
theorem test_decode_fill : read? [0x00000102] = some (.fill .white) := by decide +kernel
theorem test_decode_loadRaw :
    read? [0x00030003, 0x00000005, 0x04030201, 0xFFFFFF05] = some (.loadRaw [1, 2, 3, 4, 5]) := by decide +kernel
theorem test_decode_setCursor : read? [0x00010004, 0x004600C8] = some (.setCursor 200 70) := by decide +kernel
theorem test_decode_line : read? [0x00020110, 0x00020001, 0x00040003] = some (.line .white 1 2 3 4) := by decide +kernel
theorem test_decode_rect : read? [0x00020011, 0x00020001, 0x00040003] = some (.rect .black 1 2 3 4) := by decide +kernel
theorem test_decode_fillRect :
    read? [0x00020112, 0x00380078, 0x003F007F] = some (.fillRect .white 120 56 127 63) := by decide +kernel
theorem test_decode_circle : read? [0x00020113, 0x00050006, 0x00000002] = some (.circle .white 6 5 2) := by decide +kernel
theorem test_decode_fillCircle :
    read? [0x00020114, 0x00050006, 0x00000002] = some (.fillCircle .white 6 5 2) := by decide +kernel
theorem test_decode_arc :
    read? [0x00030115, 0x00140013, 0x0000000A, 0x005A0001] = some (.arc .white 19 20 10 1 90) := by decide +kernel
theorem test_decode_arcRL :
    read? [0x00030116, 0x00140013, 0x0000000A, 0x005A0001] = some (.arcRL .white 19 20 10 1 90) := by decide +kernel
theorem test_decode_polyline : read? [0x00040117, 0x00000003, 0x00000000, 0x00000003, 0x00020003] =
    some (.polyline .white [⟨0, 0⟩, ⟨3, 0⟩, ⟨3, 2⟩]) := by decide +kernel
theorem test_decode_bitmap : read? [0x00030118, 0x00050004, 0x00020003, 0x000040A0] =
    some (.bitmap .white 4 5 3 2 [0xA0, 0x40]) := by decide +kernel
theorem test_decode_writeChar : read? [0x00010120, 0x00000741] = some (.writeChar .white 7 0x41) := by decide +kernel
theorem test_decode_writeString :
    read? [0x00020121, 0x00070002, 0xFFFF4241] = some (.writeString .white 7 [0x41, 0x42]) := by decide +kernel
theorem test_decode_init : read? [0x00000030] = some .init := by decide +kernel
theorem test_decode_flush : read? [0x00000031] = some .flush := by decide +kernel
theorem test_decode_setContrast : read? [0x00010032, 0x00000040] = some (.setContrast 0x40) := by decide +kernel
theorem test_decode_setDisplayOn : read? [0x00000133] = some (.setDisplayOn true)
    ∧ read? [0x00000033] = some (.setDisplayOn false) := by decide +kernel
theorem test_decode_invertDisplay : read? [0x00000134] = some (.invertDisplay true) := by decide +kernel
theorem test_decode_scrollR : read? [0x00010035, 0x00000700] = some (.scrollR 0 7) := by decide +kernel
theorem test_decode_scrollL : read? [0x00010036, 0x00000502] = some (.scrollL 2 5) := by decide +kernel
theorem test_decode_scrollDR : read? [0x00010037, 0x00000300] = some (.scrollDR 0 3) := by decide +kernel
theorem test_decode_scrollDL : read? [0x00010038, 0x00000201] = some (.scrollDL 1 2) := by decide +kernel
theorem test_decode_stopScroll : read? [0x00000039] = some .stopScroll := by decide +kernel
theorem test_decode_reset : read? [0x0000003A] = some .reset := by decide +kernel

/-- The bits of SETPIXEL.W 10,10 one by one (R101, R104): N = 1, RSV = 0, C = 1, OP = 0x01; y = 10, x = 10. -/
theorem test_decode_bits :
    read? [0b0000000000000001_0000000_1_00000001, 0b0000000000001010_0000000000001010] =
      some (.setPixel .white 10 10) := by decide +kernel

/-- 95_test_vectors.md section 2.6, items 1 to 3 of R110. -/
theorem test_illegal_header :
    [[0x00000000], [0x00000005], [0x0000003B], [0x000000FF], [0x00010201, 0x00010001], [0x00010104, 0x00010001],
      [0x00000130], [0x00000131]].map why? =
      [some .unassignedOpcode, some .unassignedOpcode, some .unassignedOpcode, some .unassignedOpcode,
        some .reservedHeaderBits, some .colourBitSet, some .colourBitSet, some .colourBitSet] := by decide +kernel

/-- 95_test_vectors.md section 2.6, item 4 of R110. -/
theorem test_illegal_length :
    [[0x00020101, 0x00010001, 0x00000000], [0x00010102, 0xFFFFFFFF], [0x00020117, 0x00000002, 0x00000000], [0x00000117],
      [0x00010118, 0x00000000], [0x00020118, 0x00000000, 0x00020003], [0x00010121, 0x00000002], [0x00000003],
      [0x00020003, 0x00000400, 0x00000000]].map why? = List.replicate 9 (some .wrongLength) := by decide +kernel

/-- 95_test_vectors.md section 2.6, item 5 of R110. -/
theorem test_illegal_payload :
    [[0x00020117, 0x00010001, 0x00000000], [0x00020113, 0x00050005, 0x00010002],
      [0x00030115, 0x00050005, 0x00010002, 0x00000000], [0x00010120, 0x00010041], [0x00020121, 0x01000002, 0x00004241],
      [0x00010032, 0x00000140], [0x00010035, 0x00010700]].map why? = List.replicate 7 (some .reservedPayloadBits) := by
  decide +kernel

/-- The table's numbering: bit 0 is the header's least significant bit, the payload word follows from bit 32. -/
theorem test_table_word : decodeTableWord 64 0x000A000B_00010101 = some (.setPixel .white 11 10)
    ∧ decodeTableWord 32 0x00010101 = some (.setPixel .white 0 0)
    ∧ decodeTableWord 32 0x00010117 = some (.polyline .white []) ∧ decodeTableWord 32 0x000000FF = none := by decide +kernel

theorem test_fetch_word :
    (steps 1 (State.reset.withFetchWord 64 0x000A000A_00010101)).fb = [(138, 0x04)] := by decide +kernel

/-! ### FrameBuffer -/

theorem test_F1 : let t := after (.setPixel .white 10 10) State.reset
    t.fb = [(138, 0x04)] ∧ t.result = 0x00010000 := by decide +kernel
theorem test_F3_corner : (after (.setPixel .white 127 63) State.reset).fb = [(1023, 0x80)]
    ∧ (after (.setPixel .white 128 0) State.reset).fb = [] := by decide +kernel
theorem test_F2_fill : (after (.fill .white) tiny).fb = (List.range 8).map fun i => (i, 0xFF) := by decide +kernel
theorem test_F7_loadRaw : (after (.loadRaw [0, 1, 2, 3, 4, 5, 6, 7]) tiny).fb =
    [(1, 1), (2, 2), (3, 3), (4, 4), (5, 5), (6, 6), (7, 7)] := by decide +kernel
theorem test_F8_loadRaw_mismatch : let t := after (.loadRaw [1, 2, 3, 4]) (after (.fill .white) tiny)
    t.fb = (after (.fill .white) tiny).fb ∧ t.result = 0x00020001 ∧ t.err = true := by decide +kernel
theorem test_F9 : cursorReg (after (.setCursor 200 70) State.reset) = 0x004600C8 := by decide +kernel

/-! ### Rasterizer -/

theorem test_line_flat : linePts 0 0 5 2 = [(0, 0), (1, 0), (2, 1), (3, 1), (4, 2), (5, 2)] := by decide +kernel
theorem test_line_steep : linePts 0 0 1 3 = [(0, 0), (0, 1), (1, 2), (1, 3)] := by decide +kernel
theorem test_line_R164 : linePts 0 0 2 1 = [(0, 0), (1, 0), (2, 1)] ∧ linePts 2 1 0 0 = [(2, 1), (1, 1), (0, 0)] := by
  decide +kernel
theorem test_exec_line : (after (.line .white 0 0 7 7) State.reset).fb =
    [(0, 0x01), (1, 0x02), (2, 0x04), (3, 0x08), (4, 0x10), (5, 0x20), (6, 0x40), (7, 0x80)] := by decide +kernel
theorem test_rect : sameSet (rectPts 3 1 1 2) [(1, 1), (1, 2), (2, 1), (2, 2), (3, 1), (3, 2)] = true := by decide +kernel
theorem test_exec_rect : (after (.rect .white 5 5 2 5) State.reset).fb =
    [(2, 0x20), (3, 0x20), (4, 0x20), (5, 0x20)] := by decide +kernel
theorem test_exec_fillRect : (after (.fillRect .white 120 56 127 63) State.reset).fb =
    (List.range 8).map fun i => (1016 + i, 0xFF) := by decide +kernel
theorem test_circle_2 : sameSet (circlePts 5 5 2)
    [(3, 4), (3, 5), (3, 6), (4, 3), (4, 7), (5, 3), (5, 7), (6, 3), (6, 7), (7, 4), (7, 5), (7, 6)] = true := by
  decide +kernel
theorem test_exec_circle : (after (.circle .white 0 0 2) State.reset).fb = [(0, 0x04), (1, 0x04), (2, 0x03)] := by
  decide +kernel
theorem test_exec_fillCircle : (after (.fillCircle .white 5 5 1) State.reset).fb =
    [(4, 0x20), (5, 0x70), (6, 0x20)] := by decide +kernel
theorem test_trig : [1, 30, 135, 225, 350, 370].map sinq = [286, 8192, 11585, -11585, -2845, 2845]
    ∧ [1, 30, 135, 225, 350, 370].map cosq = [16382, 14189, -11585, -11585, 16135, 16135] := by decide +kernel
theorem test_rnd14 : [8191, 8192, -8191, -8192, 24575, 24576, -24576, 49152].map rnd14 = [0, 1, 0, -1, 1, 2, -2, 3] := by
  decide +kernel
theorem test_arcAngles : arcAngles 7 0 20 = [0, 7, 14, 20] ∧ arcAngles 7 0 21 = [0, 7, 14, 21] ∧ arcAngles 1 0 0 = [0] := by
  decide +kernel
theorem test_arc_90_180 : sameSet (arcPts 1 10 10 3 90 180)
    [(7, 8), (7, 9), (7, 10), (7, 11), (7, 12), (8, 7), (8, 8), (8, 12), (8, 13), (9, 7), (9, 13), (10, 7), (10, 13)]
      = true := by decide +kernel
theorem test_exec_arc : (after (.arc .white 10 10 5 0 0) State.reset).fb = [(143, 0x04)] := by decide +kernel
theorem test_arcRL : sameSet (arcRLPts 1 10 10 4 0 90)
    [(10, 10), (10, 11), (10, 12), (10, 13), (10, 14), (11, 14), (12, 13), (12, 14), (13, 12), (13, 13), (14, 10), (14, 11),
      (14, 12)] = true := by decide +kernel
/-- The radius line of an arc of one angle at 0 degrees: (10,10) to (12,10) (R186). -/
theorem test_exec_arcRL : (after (.arcRL .white 10 10 2 0 0) State.reset).fb =
    [(138, 0x04), (139, 0x04), (140, 0x04)] := by decide +kernel
theorem test_polyline : sameSet (polylinePts [⟨0, 0⟩, ⟨4, 0⟩, ⟨0, 3⟩, ⟨0, 0⟩])
    [(0, 0), (0, 1), (0, 2), (0, 3), (1, 0), (1, 2), (2, 0), (2, 1), (3, 0), (3, 1), (4, 0)] = true := by decide +kernel
theorem test_exec_polyline_one_vertex : (after (.polyline .white [⟨4, 4⟩]) State.reset).fb = [] := by decide +kernel
theorem test_bitmap : bitmapPoints 10 20 9 2 [0x80, 0x80, 0x00, 0x80] = [(10, 20), (18, 20), (18, 21)] := by decide +kernel
theorem test_exec_bitmap_black :
    (after (.bitmap .black 0 0 3 2 [0xA0, 0x40]) { State.reset with fb := [(0, 0xFF), (1, 0xFF), (2, 0xFF), (3, 0xFF)] }).fb =
      [(0, 0xFE), (1, 0xFD), (2, 0xFE), (3, 0xFF)] := by decide +kernel

/-! ### TextRenderer -/

theorem test_T7 : let t := after (.writeChar .white 0 0x41) { State.reset with cursorY := 4 }
    t.fb = [(0, 0xE0), (1, 0x90), (2, 0x90), (3, 0x90), (4, 0xE0), (128, 0x07), (132, 0x07)]
      ∧ cursorReg t = 0x00040005 := by decide +kernel
theorem test_T3 : let t := after (.writeChar .white 0 0x41) { State.reset with cursorX := 124 }
    t.fb = [] ∧ cursorReg t = 0x0000007C ∧ t.result = 0x00014103 := by decide +kernel
theorem test_T13 : let t := after (.writeString .white 0 [0x41, 0x43, 0x42]) State.reset
    t.fb = [(0, 0x7E), (1, 0x09), (2, 0x09), (3, 0x09), (4, 0x7E), (5, 0x7F), (6, 0x49), (7, 0x49), (8, 0x49), (9, 0x36)]
      ∧ cursorReg t = 0x0000000A := by decide +kernel
theorem test_T14 : let t := after (.writeString .white 0 [0x41, 0x42]) { State.reset with cursorX := 120 }
    t.fb = [(120, 0x7E), (121, 0x09), (122, 0x09), (123, 0x09), (124, 0x7E)] ∧ cursorReg t = 0x0000007D
      ∧ t.result = 0x00014203 := by decide +kernel

/-! ### DisplayController -/

theorem test_init : let t := after .init (ready .uninitialized (okAnswers 56))
    t.txLog.take 24 = cmds [0xAE, 0xD5, 0x80, 0xA8, 0x3F, 0xD3, 0x00, 0x40, 0x8D, 0x14, 0x20, 0x02, 0xA1, 0xC8, 0xDA, 0x12,
      0x81, 0x7F, 0xD9, 0xF1, 0xDB, 0x20, 0xA6, 0xAF]
      ∧ t.txLog.length = 56 ∧ t.ctrlState = .initOn ∧ statusReg t = 0x04000006 ∧ t.result = 0x00010000 := by decide +kernel
/-- X2 and X3: a failure before the clear keeps FB, one in the final flush leaves it cleared. -/
theorem test_init_X2_X3 :
    let s := { ready .initOn (okAnswers 23 ++ [.busError]) with fb := [(0, 0x01)] }
    let u := { ready .initOn (okAnswers 35 ++ [.busError]) with fb := [(0, 0x01)] }
    (after .init s).fb = [(0, 0x01)] ∧ (after .init s).ctrlState = .uninitialized
      ∧ (after .init u).fb = [] ∧ (after .init u).ctrlState = .uninitialized ∧ (after .init u).txLog.length = 36
      ∧ (after .init u).result = 0x00010002 := by decide +kernel
theorem test_flush : let t := after .flush { tiny with ctrlState := .initOff, txAnswers := okAnswers 4, fb := [(1, 0xA5)] }
    t.txLog = [.cmd 0xB0, .cmd 0x00, .cmd 0x10, .data [0, 0xA5, 0, 0, 0, 0, 0, 0]] ∧ t.result = 0x00010000 := by
  decide +kernel
theorem test_flush_S2 : let t := after .flush State.reset
    t.result = 0x00010004 ∧ statusReg t = 0x04000008 ∧ t.txLog = [] := by decide +kernel
theorem test_setContrast_X6 :
    (after (.setContrast 0x40) (ready .initOn (okAnswers 2))).txLog = cmds [0x81, 0x40]
      ∧ (after (.setContrast 0x10) (ready .initOn [.busError])).txLog = cmds [0x81] := by decide +kernel
theorem test_setDisplayOn_X7 :
    (after (.setDisplayOn false) (ready .initOn [.ok])).ctrlState = .initOff
      ∧ (after (.setDisplayOn false) (ready .initOn [.busError])).ctrlState = .initOn
      ∧ statusReg (after (.setDisplayOn false) (ready .initOn [.busError])) = 0x0400000E := by decide +kernel
theorem test_invertDisplay : (after (.invertDisplay true) (ready .initOn [.ok])).txLog = cmds [0xA7]
    ∧ (after (.invertDisplay false) (ready .initOn [.ok])).txLog = cmds [0xA6] := by decide +kernel
theorem test_scrollR : (after (.scrollR 0 7) (ready .initOn (okAnswers 8))).txLog =
    cmds [0x26, 0x00, 0x00, 0x00, 0x07, 0x00, 0xFF, 0x2F] := by decide +kernel
theorem test_scrollL : (after (.scrollL 2 5) (ready .initOn (okAnswers 8))).txLog =
    cmds [0x27, 0x00, 0x02, 0x00, 0x05, 0x00, 0xFF, 0x2F] := by decide +kernel
theorem test_scrollDR : (after (.scrollDR 0 3) (ready .initOn (okAnswers 7))).txLog =
    cmds [0x29, 0x00, 0x00, 0x00, 0x03, 0x01, 0x2F] := by decide +kernel
theorem test_scrollDL : (after (.scrollDL 1 2) (ready .initOn (okAnswers 7))).txLog =
    cmds [0x2A, 0x00, 0x01, 0x00, 0x02, 0x01, 0x2F] := by decide +kernel
theorem test_stopScroll : (after .stopScroll (ready .initOn [.ok])).txLog = cmds [0x2E] := by decide +kernel
theorem test_reset : let t := after .reset (ready .initOn [])
    t.txLog = [.reset true, .delay 10, .reset false, .delay 10] ∧ t.ctrlState = .uninitialized
      ∧ statusReg t = 0x04000000 := by decide +kernel
/-- S9: RSTLINE reads 1 only during the hold; RESET needs no answer to go on after it (R52). -/
theorem test_reset_hold :
    let t := after .reset { ready .initOn [.busError] with pauses := [true, true] }
    (statusReg t).getLsbD 4 = true ∧ (statusReg (steps 1 t)).getLsbD 4 = false ∧ (steps 1 t).doneCount = 0
      ∧ (steps 2 t).result = 0x00010000 ∧ (steps 2 t).txAnswers = [.busError] := by decide +kernel

/-! ### The engine and the bus -/

/-- The first two descriptors of P3: ILLEGAL, then NOT_INIT. -/
theorem test_P3 : (steps 1 (queued [0x000000FF, 0x00000031])).result = 0x00010005
    ∧ (steps 2 (queued [0x000000FF, 0x00000031])).result = 0x00020004 := by decide +kernel
/-- R115 with CMDQ_DEPTH = 4: N = 4 is oversize; the header and the four words go, then ILLEGAL; the next header is found. -/
theorem test_oversize :
    let s := { tiny with queue := [0x00040001, 0, 0, 0] }
    (steps 1 s).phase = .discard 4 ∧ (steps 4 s).phase = .discard 1 ∧ (steps 4 s).doneCount = 0
      ∧ (steps 1 { steps 4 s with queue := [0, 0x00000031] }).result = 0x00010005
      ∧ (steps 1 { steps 4 s with queue := [0, 0x00000031] }).queue = [0x00000031] := by decide +kernel
/-- S3 and S6: a write of 1 to STATUS bit 3 clears ERR, a write of 0 does not. -/
theorem test_S3_S6 :
    (steps 1 { hosting (.write .w32 4 8) with err := true }).err = false
      ∧ (steps 1 { hosting (.write .w32 4 0) with err := true }).err = true := by decide +kernel
/-- S1, with GEOMETRY and CONFIG of the default numbers (R49). -/
theorem test_host_reads :
    [0x04, 0x08, 0x0C, 0x10, 0x14, 0x18].map (fun a => ((steps 1 (hosting (.read .w32 a))).reads.map BusReply.value)) =
      [[0x04000000], [0], [0], [0x00400080], [0x04000100], [0]] := by decide +kernel
/-- FBWIN is little-endian, and 0 from FBSIZE on (R72, R79). -/
theorem test_fbwin :
    let s := fun a => { hosting a with fb := [(2, 0x11), (3, 0x22), (1023, 0x33)] }
    [HostAccess.read .w16 0x10002, .read .w32 0x10000, .read .w8 0x103FF, .read .w8 0x10400].map
      (fun a => (steps 1 (s a)).reads.map BusReply.value) = [[0x2211], [0x22110000], [0x33], [0]] := by decide +kernel
/-- The bus writes a descriptor and the engine runs it (R74, R273). -/
theorem test_bus_to_engine :
    let s := { State.reset with schedule := [.host, .engine], hostOps := [.write .w32 0 0x00000031] }
    (steps 1 s).queue = [0x00000031] ∧ (steps 2 s).result = 0x00010004 := by decide +kernel

/-! ### Witnesses: for every statement with hypotheses, states and operands that meet them all -/

theorem witness_DecodeOfEncodeIsTheInstruction :
    (Instr.bitmap .white 4 5 9 2 [0x80, 0x80, 0x00, 0x80]).wf = true ∧ (Instr.writeString .white 0 []).wf = true := by
  decide +kernel

theorem witness_DecodedDescriptorIsFramedAndWellFormed :
    decode [0x00010101, 0x000A000A, 0x00000031] = .ok (.setPixel .white 10 10, [0x00000031]) := by rfl

/-- One descriptor without packed bytes, and one of each format with them, its padding not 0. -/
theorem witness_EncodeOfDecodeIsTheWords :
    (decode [0x00010101, 0x000A000A, 0x00000031] = .ok (.setPixel .white 10 10, [0x00000031])
        ∧ hasByteArea (.setPixel .white 10 10) = false)
      ∧ (decode [0x00020121, 0x00070002, 0xFFFF4241, 0x00000031] = .ok (.writeString .white 7 [0x41, 0x42], [0x00000031])
        ∧ hasByteArea (.writeString .white 7 [0x41, 0x42]) = true)
      ∧ (decode [0x00020003, 0x00000003, 0xFF030201] = .ok (.loadRaw [1, 2, 3], [])
        ∧ hasByteArea (.loadRaw [1, 2, 3]) = true)
      ∧ decode [0x00030118, 0x00050004, 0x00020003, 0xFFFF40A0] = .ok (.bitmap .white 4 5 3 2 [0xA0, 0x40], [])
        ∧ hasByteArea (.bitmap .white 4 5 3 2 [0xA0, 0x40]) = true := ⟨⟨rfl, rfl⟩, ⟨rfl, rfl⟩, ⟨rfl, rfl⟩, rfl, rfl⟩

theorem witness_ValidHeadersAreTheRowsOfTheTable :
    [(0x000A000A : Word)].length = nField 0x00010101 ∧ matchesRow .setPixel 0x00010101
      ∧ requiredN .setPixel [0x000A000A] = some 1 ∧ payloadRsvZero .setPixel [0x000A000A] = true := by
  unfold matchesRow; decide +kernel

theorem witness_StepRunsTheDecodedDescriptor :
    let s := queued [0x00010101, 0x000A000A, 0x00000031]
    s.phase = .idle ∧ s.queue = 0x00010101 :: [0x000A000A, 0x00000031] ∧ 1 + nField 0x00010101 ≤ s.cfg.cmdqDepth
      ∧ decode (0x00010101 :: [0x000A000A, 0x00000031]) = .ok (.setPixel .white 10 10, [0x00000031])
      ∧ s.schedule = [] ∧ { s with schedule := [.engine] }.schedule = .engine :: [] :=
  ⟨rfl, rfl, by decide +kernel, rfl, rfl, rfl⟩

/-- One descriptor for each condition of R110. -/
theorem witness_IllegalDescriptorIsDiscarded :
    (∀ d ∈ [([0x00000000] : List Word), [0x00010201, 0x00010001], [0x00010104, 0x00010001], [0x00000003],
        [0x00010032, 0x00000140]],
      (queued d).schedule = [] ∧ (queued d).phase = .idle ∧ 1 + nField (d.headD 0) ≤ (queued d).cfg.cmdqDepth
        ∧ nField (d.headD 0) ≤ d.tail.length)
      ∧ illegalDescriptor 0x00000000 [] ∧ illegalDescriptor 0x00010201 [0x00010001]
      ∧ illegalDescriptor 0x00010104 [0x00010001] ∧ illegalDescriptor 0x00000003 []
      ∧ illegalDescriptor 0x00010032 [0x00000140] :=
  ⟨by decide +kernel, .inl rfl, .inr ⟨.setPixel, rfl, .inl (by decide)⟩,
    .inr ⟨.setCursor, rfl, .inr (.inl ⟨rfl, rfl⟩)⟩, .inr ⟨.loadRaw, rfl, .inr (.inr (.inl (by decide)))⟩,
    .inr ⟨.setContrast, rfl, .inr (.inr (.inr rfl))⟩⟩

/-- The smallest oversize N of a depth of 4; Discard with one word in Q at its last word, at the last but one and at the largest k; and with
all its words in Q. -/
theorem witness_OversizeDescriptorIsDiscarded :
    let s := { tiny with queue := [0x00040001] }
    let d := fun k => { tiny with queue := [0], phase := .discard k }
    (s.schedule = [] ∧ s.phase = .idle ∧ s.queue = 0x00040001 :: [] ∧ s.cfg.cmdqDepth < 1 + nField 0x00040001)
      ∧ (∀ k ∈ [1, 2, 65535], (d k).schedule = [] ∧ (d k).phase = .discard k ∧ (d k).queue = 0 :: [])
      ∧ (d 1).queue = [0] ++ [] ∧ [(0 : Word)].length = 1 := by decide +kernel

theorem witness_EngineWaitsForWordsAndAnswers :
    let s := queued [0x00010101]
    let d := { tiny with phase := .discard 65535 }
    let t := after .stopScroll (ready .initOn [])
    let u := after .reset { ready .initOn [] with pauses := [true] }
    (State.reset.schedule = [] ∧ State.reset.phase = .idle ∧ State.reset.queue = [])
      ∧ (s.schedule = [] ∧ s.phase = .idle ∧ s.queue = 0x00010101 :: [] ∧ 1 + nField 0x00010101 ≤ s.cfg.cmdqDepth
          ∧ ([] : List Word).length < nField 0x00010101)
      ∧ (d.schedule = [] ∧ d.phase = .discard 65535 ∧ d.queue = [])
      ∧ (t.schedule = [] ∧ t.txAnswers = [] ∧ ∃ w, t.phase = .exec w ∧ hasAnswer w.awaiting = true)
      ∧ u.schedule = [] ∧ ∃ w, u.phase = .exec w ∧ hasAnswer w.awaiting = false :=
  ⟨by decide +kernel, by decide +kernel, by decide +kernel, ⟨rfl, rfl, _, rfl, rfl⟩, rfl, _, rfl, rfl⟩

theorem inv_reset : Inv State.reset :=
  ⟨⟨rfl, by decide⟩, by unfold QueueOk; decide +kernel, ⟨rfl, by decide, fun _ => rfl⟩, rfl⟩

theorem witness_StepKeepsTheInvariant : Inv State.reset ∧ ∃ t, step State.reset = .next t := ⟨inv_reset, _, rfl⟩

theorem witness_BlockResetPutsEveryFieldAtReset :
    let s := { ready .initOn [] with schedule := [.blockReset], phase := .discard 3 }
    s.schedule = .blockReset :: [] := rfl

theorem witness_ReadyAnswersEqualOneTurnPerAnswer :
    (∃ t, exec .flush { ready .initOn [] with txAnswers := [.ok, .busError] } = .next t)
      ∧ ∃ u, exec .flush { ready .initOn [] with txAnswers := [] } = .next u := ⟨⟨_, rfl⟩, _, rfl⟩

/-- A step that moves the cursor, by the engine's turn, in a shared cycle whose host write completes the descriptor, and by a block reset;
then one input for each other clause. -/
theorem witness_OnlyTextAndSetCursorMoveTheCursor :
    let e := queued [0x00010004, 0x00010001]
    let b := { queued [0x00010004] with schedule := [.both], hostOps := [.write .w32 defaultConfig.base 0x00010001] }
    let r := { State.reset with cursorX := 1, schedule := [.blockReset] }
    ((∃ t, step e = .next t ∧ ¬ SameCursor e t) ∧ (∃ t, step b = .next t ∧ ¬ SameCursor b t)
        ∧ ∃ t, step r = .next t ∧ ¬ SameCursor r t)
      ∧ ((∃ t, exec (.fill .white) tiny = .next t) ∧ setsCursor (.fill .white) = false)
      ∧ (∃ t, hostTurn (hosting (.read .w32 0x0C)) = .next t)
      ∧ ∃ t, engineTurn { tiny with phase := .discard 1, queue := [0] } = .next t
        ∧ { tiny with phase := .discard 1, queue := [0] }.phase ≠ .idle :=
  ⟨⟨⟨_, rfl, by unfold SameCursor; decide +kernel⟩, ⟨_, rfl, by unfold SameCursor; decide +kernel⟩,
      _, rfl, by unfold SameCursor; decide +kernel⟩,
    ⟨⟨_, rfl⟩, rfl⟩, ⟨_, rfl⟩, _, rfl, by decide +kernel⟩

theorem witness_CtrlStateTransitions :
    (after .init (ready .initOff (okAnswers 56))).phase = .idle ∧ (after .init (ready .initOff [.busError])).phase = .idle
      ∧ (after (.setDisplayOn true) (ready .initOff [.ok])).phase = .idle
      ∧ (after (.setDisplayOn false) (ready .initOn [.busError])).phase = .idle
      ∧ (after .reset (ready .initOn [])).phase = .idle
      ∧ (after .stopScroll (ready .uninitialized [])).phase = .idle ∧ needsInit .stopScroll = true
      ∧ (after (.setCursor 1 1) (ready .initOn [])).phase = .idle := by decide +kernel

/-- The last on-screen pixel and the first off-screen column and row of the default screen. -/
theorem witness_SetPixelWritesOneByte :
    ((127 : Half).toNat < State.reset.cfg.w ∧ (63 : Half).toNat < State.reset.cfg.h)
      ∧ State.reset.cfg.w ≤ (128 : Half).toNat ∧ State.reset.cfg.h ≤ (64 : Half).toNat := by decide +kernel

theorem witness_SetPixelPairAndIdempotence :
    (127 : Half).toNat < State.reset.cfg.w ∧ (63 : Half).toNat < State.reset.cfg.h
      ∧ (∃ t, exec (.setPixel .white 127 63) State.reset = .next t)
      ∧ (∃ u, exec (.setPixel .black 127 63) (after (.setPixel .white 127 63) State.reset) = .next u)
      ∧ ∃ v, exec (.setPixel .white 127 63) (after (.setPixel .white 127 63) State.reset) = .next v :=
  ⟨by decide +kernel, by decide +kernel, ⟨_, rfl⟩, ⟨_, rfl⟩, _, rfl⟩

theorem witness_FillWritesEveryByte :
    7 < tiny.cfg.fbSize ∧ tiny.cfg.fbSize ≤ 8 ∧ 7 < tiny.cfg.w ∧ 7 < tiny.cfg.h ∧ Memory.wf tiny.fb = true
      ∧ ∀ c ∈ tiny.fb, c.1 < tiny.cfg.fbSize := by decide +kernel

theorem witness_LoadRawReplacesOrMismatches :
    ([0, 1, 2, 3, 4, 5, 6, 7] : List Byte).length = tiny.cfg.fbSize
      ∧ ([0, 1, 2, 3, 4, 5, 6] : List Byte).length ≠ tiny.cfg.fbSize := by decide +kernel

theorem witness_PaintDependsOnlyOnTheSetOfPoints (p : Point) :
    p ∈ ([(0, 0), (1, 0), (0, 0)] : List Point) ↔ p ∈ ([(1, 0), (0, 0)] : List Point) := by
  simp; tauto

/-- A flat and a steep line, so that both clauses of the last conjunct are met. -/
theorem witness_LinePointsRunFromEndToEnd :
    ((linePts 0 0 5 2)[1]? = some (1, 0) ∧ (linePts 0 0 5 2)[1 + 1]? = some (2, 1)
        ∧ ((2 - 0 : Int).natAbs : Int) ≤ (5 - 0 : Int).natAbs)
      ∧ (linePts 0 0 1 3)[1]? = some (0, 1) ∧ (linePts 0 0 1 3)[1 + 1]? = some (1, 2)
      ∧ ¬ ((3 - 0 : Int).natAbs : Int) ≤ (1 - 0 : Int).natAbs := by decide +kernel

/-- The first conjunct is r = 4, whose walk goes on past (2, 3) to the diagonal. -/
theorem witness_OctantWalkIsConnectedAndComplete :
    (circleSteps 4).getLast? = some (3, 3) ∧ (circleSteps 2)[0]? = some (0, 2) ∧ (circleSteps 2)[0 + 1]? = some (1, 2) ∧ (circleSteps 2).getLast? = some (1, 2)
      ∧ (0, 2) ∈ circleSteps 2 ∧ (circleSteps 0).getLast? = some (0, 0) ∧ 2 + 1 ≤ 3 := by decide +kernel

theorem witness_CircleIsSymmetricAndClosed :
    ((3, 4) : Point) ∈ circlePts 5 5 2 ∧ (circleSteps 2)[0]? = some (0, 2) ∧ (circleSteps 2)[0 + 1]? = some (1, 2) := by
  decide +kernel

theorem witness_FilledCircleHasOneSpanARow :
    ((3, 4) : Point) ∈ circlePts 5 5 2 ∧ ((0, 2) : Point) ∈ circleSteps 2 ∧ (5 - (2 : Nat) : Int) ≤ 3 ∧ (3 : Int) ≤ 5 + (2 : Nat)
      ∧ (5 - (2 : Nat) : Int) ≤ 7 ∧ (7 : Int) ≤ 5 + (2 : Nat) := by decide +kernel

/-- Zero, a positive and a negative tie, and a negative value. -/
theorem witness_Rnd14RoundsHalfAwayFromZero :
    (0 : Int) ≤ 0 ∧ (-1 : Int) < 0 ∧ 2 * ((8192 : Int) - 16384 * rnd14 8192).natAbs = 16384
      ∧ 2 * ((-8192 : Int) - 16384 * rnd14 (-8192)).natAbs = 16384 := by decide +kernel

theorem witness_SineTableSymmetries : 0 ≤ 180 ∧ 180 ≤ 180 ∧ 0 < 90 ∧ 89 < 90 := by decide

/-- A step that does not divide the sweep and one that does. -/
theorem witness_ArcAnglesVisitBothEnds : 1 ≤ 7 ∧ 2 * 7 ≤ 20 ∧ 20 % 7 ≠ 0 ∧ 3 * 7 ≤ 21 ∧ 21 % 7 = 0 ∧ 1 ≤ 1 ∧ 0 * 1 ≤ 0 := by
  decide

theorem witness_ArcPastAFullTurnAddsNothing :
    State.reset.cfg.arcStep = 1 ∧ 359 ≤ (359 : Half).toNat ∧ 359 ≤ (720 : Half).toNat
      ∧ (∃ t, exec (.arc .white 5 5 2 0 720) State.reset = .next t)
      ∧ ∃ u, exec (.arc .white 5 5 2 0 359) State.reset = .next u :=
  ⟨rfl, by decide, by decide, ⟨_, rfl⟩, _, rfl⟩

theorem witness_ZeroBitmapLeavesFb : ∀ b ∈ ([0, 0] : List Byte), b = 0 := by decide

/-- One shape point for each disjunct. -/
theorem witness_ShapeCoordinatesAreBounded :
    1 ≤ 1 ∧ ((2, 1) : Point) ∈ linePts (coord 0) (coord 0) (coord 2) (coord 1)
      ∧ ((2, 1) : Point) ∈ rectPts (coord 0) (coord 0) (coord 2) (coord 1)
      ∧ ((2, 1) : Point) ∈ fillRectPts (coord 0) (coord 0) (coord 2) (coord 1)
      ∧ ((0, -2) : Point) ∈ circlePts (coord 0) (coord 0) (2 : Half).toNat
      ∧ ((0, 0) : Point) ∈ fillCirclePts (coord 0) (coord 0) (2 : Half).toNat
      ∧ ((0, 0) : Point) ∈ arcRLPts 1 (coord 0) (coord 0) (2 : Half).toNat (0 : Half).toNat (0 : Half).toNat
      ∧ ((2, 1) : Point) ∈ polylinePts [⟨0, 0⟩, ⟨2, 1⟩]
      ∧ ((0, 0) : Point) ∈ bitmapPoints (coord 0) (coord 0) (1 : Half).toNat (1 : Half).toNat [0x80] := by decide +kernel

/-- The last cursor at which 'A' fits, and the first at which it does not. -/
theorem witness_WriteCharWritesOrRejects :
    let g := (fontLookup defaultConfig 0 0x41).getD { gw := 0, gh := 0, gb := [] }
    (123 : Half).toNat + g.gw.toNat ≤ defaultConfig.w ∧ defaultConfig.w < (124 : Half).toNat + g.gw.toNat := by decide +kernel

/-- "AB" that ends at the last column; the empty string far off the screen. -/
theorem witness_WriteStringWritesWhatFits :
    (118 : Half).toNat + textWidth defaultConfig 0 [0x41, 0x42] ≤ defaultConfig.w
      ∧ (([] : List Byte) = [] ∨ (65535 : Half).toNat + textWidth defaultConfig 0 [] ≤ defaultConfig.w) := by decide +kernel

/-- 'B' after 'A' one column too far; and a first character that does not fit. -/
theorem witness_WriteStringStopsAtFirstMisfit :
    ((119 : Half).toNat + textWidth defaultConfig 0 [0x41] ≤ defaultConfig.w
        ∧ defaultConfig.w < (119 : Half).toNat + textWidth defaultConfig 0 [0x41] + (glyphFor defaultConfig 0 0x42).gw.toNat)
      ∧ (([] : List Byte) = [] ∨ (200 : Half).toNat + textWidth defaultConfig 0 [] ≤ defaultConfig.w)
      ∧ defaultConfig.w < (200 : Half).toNat + textWidth defaultConfig 0 [] + (glyphFor defaultConfig 0 0x43).gw.toNat := by
  decide +kernel

theorem witness_DrawingIgnoresTheController :
    isDrawing (.line .white 0 0 7 7) = true ∧ ∃ t, exec (.line .white 0 0 7 7) State.reset = .next t := ⟨rfl, _, rfl⟩

theorem witness_InitSucceeds :
    (ready .initOff (okAnswers (initRequests defaultConfig).length ++ [.busError])).txAnswers =
      okAnswers (initRequests defaultConfig).length ++ [.busError] := rfl

/-- The first request, the last of INIT_BYTES, the first of the flush, the last of all. -/
theorem witness_InitAbortsAtTheFirstBusError :
    (initBytes defaultConfig).length = 24 ∧ (initRequests defaultConfig).length = 56
      ∧ (∀ k ∈ [0, 23, 24, 55], k < (initRequests defaultConfig).length
          ∧ (ready .initOn (okAnswers k ++ [.busError])).txAnswers = okAnswers k ++ .busError :: []) := by decide +kernel

theorem witness_FlushTransmitsEveryPage :
    (ready .initOff (okAnswers (flushRequests defaultConfig []).length)).ctrlState ≠ .uninitialized
      ∧ (ready .initOff (okAnswers (flushRequests defaultConfig []).length)).txAnswers =
          okAnswers (flushRequests defaultConfig []).length ++ [] := by decide +kernel

theorem witness_FlushAbortsAtTheFirstBusError :
    (flushRequests defaultConfig []).length = 32
      ∧ ∀ k ∈ [0, 31], k < (flushRequests defaultConfig []).length
        ∧ (ready .initOn (okAnswers k ++ [.busError])).ctrlState ≠ .uninitialized
        ∧ (ready .initOn (okAnswers k ++ [.busError])).txAnswers = okAnswers k ++ .busError :: [] := by decide +kernel

theorem witness_UninitializedControllerRefusesCommands :
    (∀ i ∈ [Instr.flush, .setContrast 1, .setDisplayOn true, .invertDisplay false, .scrollR 0 7, .scrollL 0 7, .scrollDR 0 7,
        .scrollDL 0 7, .stopScroll], needsInit i = true) ∧ State.reset.ctrlState = .uninitialized := by decide +kernel

theorem witness_CommandsSendTheirBytes :
    commandBytes defaultConfig (.setContrast 0x40) = some [0x81, 0x40]
      ∧ commandBytes defaultConfig (.setDisplayOn false) = some [0xAE]
      ∧ commandBytes defaultConfig (.invertDisplay true) = some [0xA7]
      ∧ commandBytes defaultConfig (.scrollR 0 7) = some [0x26, 0x00, 0x00, 0x00, 0x07, 0x00, 0xFF, 0x2F]
      ∧ commandBytes defaultConfig (.scrollL 2 5) = some [0x27, 0x00, 0x02, 0x00, 0x05, 0x00, 0xFF, 0x2F]
      ∧ commandBytes defaultConfig (.scrollDR 0 3) = some [0x29, 0x00, 0x00, 0x00, 0x03, 0x01, 0x2F]
      ∧ commandBytes defaultConfig (.scrollDL 1 2) = some [0x2A, 0x00, 0x01, 0x00, 0x02, 0x01, 0x2F]
      ∧ commandBytes defaultConfig .stopScroll = some [0x2E]
      ∧ (ready .initOff (okAnswers 2)).ctrlState ≠ .uninitialized
      ∧ (ready .initOff (okAnswers 2)).txAnswers = okAnswers ([0x81, 0x40] : List Byte).length ++ [] := by decide +kernel

theorem witness_CommandsAbortAtTheFirstBusError :
    commandBytes defaultConfig (.setContrast 0x40) = some [0x81, 0x40]
      ∧ ∀ k ∈ [0, 1], k < ([0x81, 0x40] : List Byte).length
        ∧ (ready .initOn (okAnswers k ++ [.busError])).ctrlState ≠ .uninitialized
        ∧ (ready .initOn (okAnswers k ++ [.busError])).txAnswers = okAnswers k ++ .busError :: [] := by decide +kernel

theorem witness_ControllerOpWaitsForEachAnswer :
    requestsOf (ready .initOn []) .stopScroll = some (cmds [0x2E]) ∧ (ready .initOn []).ctrlState ≠ .uninitialized
      ∧ 0 < (cmds [0x2E]).length ∧ (ready .initOn []).txAnswers = okAnswers 0
      ∧ (∀ k ∈ [0, 23, 24, 55], k < (initRequests defaultConfig).length)
      ∧ 23 < (initBytes defaultConfig).length ∧ (initBytes defaultConfig).length ≤ 24
      ∧ ∀ k, requestsOf (ready .initOff (okAnswers k)) .init = some (initRequests defaultConfig)
        ∧ (ready .initOff (okAnswers k)).txAnswers = okAnswers k :=
  ⟨by decide +kernel, by decide +kernel, by decide +kernel, rfl, by decide +kernel, by decide +kernel, by decide +kernel,
    fun _ => ⟨rfl, rfl⟩⟩

/-- The order of R224: an INIT that waits for its last command byte, and one that waits in its flush. -/
theorem test_init_waits :
    let s := fun k => { ready .initOn (okAnswers k) with fb := [(0, 0x01)] }
    (after .init (s 23)).ctrlState = .uninitialized ∧ (after .init (s 23)).fb = [(0, 0x01)]
      ∧ (after .init (s 24)).ctrlState = .initOn ∧ (after .init (s 24)).fb = [] := by decide +kernel

theorem witness_ResetPulsesTheLine :
    (∀ b ∈ (ready .initOn []).pauses.take 2, b = false)
      ∧ (∀ b ∈ { ready .initOn [] with pauses := [false, false, true] }.pauses.take 2, b = false)
      ∧ { ready .initOn [.busError] with pauses := [true] }.pauses = true :: []
      ∧ { ready .uninitialized [] with pauses := [false, true] }.pauses = false :: true :: []
      ∧ (ready .initOn []).schedule = [] := by decide +kernel

/-- A state with every flag set. -/
theorem witness_StatusRegisterFields :
    let s := { ready .initOn [] with queue := [0], err := true, resetLine := true }
    s.queue ≠ [] ∧ s.ctrlState = .initOn ∧ s.err = true ∧ s.resetLine = true ∧ 5 ≤ 5 ∧ 15 ≤ 15 := by decide +kernel

/-- What a host access at an offset needs, for accesses at the edges of each clause. -/
theorem listed_of (width : AccessWidth) (off : Nat) (h : off < 0x20000 ∧ ((off < 0x10000 ∧ width = .w32 ∧ off % 4 = 0)
    ∨ (0x10000 ≤ off ∧ off % widthBytes width = 0))) : listedAccess defaultConfig width (defaultConfig.base + off) :=
  ⟨off, h.1, rfl, h.2⟩

/-- Every register, the last reserved offset, the first and last bytes of FBWIN and the first byte past FBSIZE. -/
theorem witness_HostReadsAreExact :
    ∀ a ∈ [(AccessWidth.w32, 0x00), (.w32, 0x04), (.w32, 0x08), (.w32, 0x0C), (.w32, 0x10), (.w32, 0x14), (.w32, 0x18),
        (.w32, 0xFFFC), (.w32, 0x10000), (.w8, 0x103FF), (.w8, 0x10400), (.w16, 0x103FE), (.w8, 0x1FFFF)],
      let s := hosting (.read a.1 (defaultConfig.base + a.2))
      s.schedule = .host :: [] ∧ s.held = none ∧ s.hostOps = .read a.1 (s.cfg.base + a.2) :: [] ∧ a.2 < 0x20000
        ∧ listedAccess s.cfg a.1 (s.cfg.base + a.2) ∧ isBusy s = false := by
  intro a h
  have hb : a.2 < 0x20000 ∧ ((a.2 < 0x10000 ∧ a.1 = .w32 ∧ a.2 % 4 = 0)
      ∨ (0x10000 ≤ a.2 ∧ a.2 % widthBytes a.1 = 0)) := by revert a; decide +kernel
  exact ⟨rfl, rfl, rfl, hb.1, listed_of a.1 a.2 hb, rfl⟩

/-- The other way to meet HostReadsAreExact: a busy engine and a register that is exact all the same. -/
theorem witness_HostReadsAreExact_busy :
    let s := { hosting (.read .w32 (defaultConfig.base + 0x04)) with queue := [0x00010101] }
    s.schedule = .host :: [] ∧ s.held = none ∧ s.hostOps = .read .w32 (s.cfg.base + 0x04) :: []
      ∧ listedAccess s.cfg .w32 (s.cfg.base + 0x04) ∧ isBusy s = true ∧ (0x04 ≠ 0x0C ∧ 0x04 < 0x10000) :=
  ⟨rfl, rfl, rfl, listed_of _ _ (by decide +kernel), rfl, by decide⟩

theorem witness_BusyReadsAreAnswered :
    ∀ a ∈ [(AccessWidth.w32, 0x0C), (.w16, 0x10000), (.w8, 0x1FFFF)],
      let s := { hosting (.read a.1 (defaultConfig.base + a.2)) with queue := [0x00010101] }
      s.schedule = .host :: [] ∧ s.held = none ∧ s.hostOps = .read a.1 (s.cfg.base + a.2) :: []
        ∧ listedAccess s.cfg a.1 (s.cfg.base + a.2) ∧ isBusy s = true ∧ (a.2 = 0x0C ∨ 0x10000 ≤ a.2) := by
  intro a h
  have hb : (a.2 < 0x20000 ∧ ((a.2 < 0x10000 ∧ a.1 = .w32 ∧ a.2 % 4 = 0)
      ∨ (0x10000 ≤ a.2 ∧ a.2 % widthBytes a.1 = 0))) ∧ (a.2 = 0x0C ∨ 0x10000 ≤ a.2) := by revert a; decide +kernel
  exact ⟨rfl, rfl, rfl, listed_of a.1 a.2 hb.1, rfl, hb.2⟩

/-- A misaligned read, a narrow register write and an address past the aperture, none of them listed. -/
theorem witness_UnlistedAccessesFault :
    (hosting (.read .w32 0x10002)).schedule = .host :: [] ∧ (hosting (.read .w32 0x10002)).held = none
      ∧ (hosting (.read .w32 0x10002)).hostOps = .read .w32 0x10002 :: []
      ∧ ¬ listedAccess defaultConfig .w32 0x10002 ∧ ¬ listedAccess defaultConfig .w16 0x00
      ∧ ¬ listedAccess defaultConfig .w32 0x20000 := by
  have hb : defaultConfig.base = 0 := rfl
  refine ⟨rfl, rfl, rfl, ?_, ?_, ?_⟩ <;> rintro ⟨off, h, e, hh⟩ <;> rw [hb, Nat.zero_add] at e <;> subst e <;>
    revert h hh <;> decide +kernel

/-- A write to CMD with room, to a full CMD, to STATUS, to an ignored register; and a held write with and without room. -/
theorem witness_HostWritesAppendClearOrAreIgnored :
    (∀ a ∈ [(0x00, ([] : List Word)), (0x00, [0, 0, 0, 0]), (0x04, []), (0x18, [])],
      let s := { tiny with schedule := [.host], queue := a.2, hostOps := [.write .w32 (tiny.cfg.base + a.1) 8] }
      s.schedule = .host :: [] ∧ s.held = none ∧ s.hostOps = .write .w32 (s.cfg.base + a.1) 8 :: []
        ∧ listedAccess s.cfg .w32 (s.cfg.base + a.1))
      ∧ ∀ q ∈ [([0, 0, 0] : List Word), [0, 0, 0, 0]],
        let s := { tiny with schedule := [.host], queue := q, held := some 7 }
        s.schedule = .host :: [] ∧ s.held = some 7 := by
  refine ⟨fun a h => ⟨rfl, rfl, rfl, a.1, ?_, rfl, ?_⟩, fun q _ => ⟨rfl, rfl⟩⟩
  · revert a; decide +kernel
  · revert a; decide +kernel

/-- A completion with each code of R270 in a shared cycle, then the inputs of the two cases. -/
theorem witness_CompletionBeatsSameCycleClear :
    let s := { State.reset with
      schedule := [.both], hostOps := [.write .w32 (defaultConfig.base + 0x04) 8], err := true, cursorX := 200 }
    (s.schedule = .both :: [] ∧ s.held = none ∧ s.hostOps = .write .w32 (s.cfg.base + 0x04) 8 :: []
        ∧ (8 : Word).getLsbD 3 = true)
      ∧ [[], [0x00000002], [0x00010003, 0], [0x00010120, 0x41], [0x00000031], [0x00000200]].map
          (fun q => (resultCode (steps 1 { s with queue := q }).result, (steps 1 { s with queue := q }).err)) =
          [(0, false), (0, false), (1, true), (3, true), (4, true), (5, true)]
      ∧ (steps 1 { s with ctrlState := .initOn, queue := [0x00000031], txAnswers := [.busError] }).result = 0x00010002
      ∧ nField 0x000000FF = 0 ∧ illegalDescriptor 0x000000FF [] ∧ nField 0x00000002 = 0 :=
  ⟨by decide +kernel, by decide +kernel, by decide +kernel, by decide, .inl (by decide +kernel), by decide⟩

end Sys2Proof.Tests
end

section
namespace Sys2Proof.Machine

/-! ## The invariant of the machine -/

theorem next_unique {o : Outcome} {t u : State} (ht : o = .next t) (hu : o = .next u) : t = u :=
  Host.Outcome.next.inj (ht.symm.trans hu)

/-! ### Drawing operations -/

/-- `u` shows what a drawing operation looks at as `s` does: the configuration, FB and the cursor. -/
def SameCanvas (s u : State) : Prop := u.cfg = s.cfg ∧ u.fb = s.fb ∧ SameCursor s u

theorem SameCursor.refl (s : State) : SameCursor s s := ⟨rfl, rfl⟩

theorem SameHost.refl (s : State) : SameHost s s := ⟨rfl, rfl, rfl, rfl, rfl, rfl, rfl⟩

theorem SameCanvas.refl (s : State) : SameCanvas s s := ⟨rfl, rfl, .refl s⟩

/-- `f` is one completion that looks at the canvas of `s` alone and changes FB, within its bounds, and the cursor. -/
def DrawsAlike (f : State → Outcome) (s : State) : Prop :=
  ∃ fb x y st v, (FbOk s → FbOk { s with fb := fb }) ∧ (st ≠ .glyphOverflow → v = 0)
    ∧ ∀ u, SameCanvas s u → f u = .next (complete { u with fb := fb, cursorX := x, cursorY := y } st v)

theorem drawsAlike_paint (P : Config → List Point) (c : Colour) (s : State) :
    DrawsAlike (fun u => .next (complete (paint u (P u.cfg) c) .ok 0)) s := by
  refine ⟨(paint s (P s.cfg) c).fb, s.cursorX, s.cursorY, .ok, 0,
    fun h => ⟨paint_wf _ c h.1, paint_bound _ c h.2⟩, fun _ => rfl, fun u ⟨hc, hf, hx, hy⟩ => ?_⟩
  simp only [paint, ← hc, ← hf, ← hx, ← hy]

theorem drawsAlike_fill (v : Byte) (s : State) : DrawsAlike (fun u => .next (complete (fillFb u v) .ok 0)) s := by
  refine ⟨(fillFb s v).fb, s.cursorX, s.cursorY, .ok, 0,
    fun _ => ⟨tabulate_wf _ _, fun c hc => (mem_tabulate.mp hc).1⟩, fun _ => rfl, fun u ⟨hc, _, hx, hy⟩ => ?_⟩
  simp only [fillFb, ← hc, ← hx, ← hy]

theorem drawsAlike_loadRaw (bytes : List Byte) (s : State) : DrawsAlike (execLoadRaw bytes) s := by
  by_cases h : bytes.length = s.cfg.fbSize
  · refine ⟨(loadFb s bytes).fb, s.cursorX, s.cursorY, .ok, 0,
      fun _ => ⟨tabulate_wf _ _, fun c hc => (mem_tabulate.mp hc).1⟩, fun _ => rfl, fun u ⟨hc, _, hx, hy⟩ => ?_⟩
    rw [← hc] at h
    simp [execLoadRaw, h, loadFb, ← hc, ← hx, ← hy]
  · refine ⟨s.fb, s.cursorX, s.cursorY, .sizeMismatch, 0, id, fun _ => rfl, fun u ⟨hc, hf, hx, hy⟩ => ?_⟩
    rw [← hc] at h
    simp [execLoadRaw, h, ← hf, ← hx, ← hy]

/-- PutGlyph rejects a glyph on every such canvas, or puts the same FB and cursor on each (R202). -/
theorem putGlyph_alike (c : Colour) (font ch : Byte) (s : State) :
    (∀ u, SameCanvas s u → putGlyph c font ch u = none)
      ∨ ∃ fb x, (FbOk s → FbOk { s with fb := fb })
          ∧ ∀ u, SameCanvas s u → putGlyph c font ch u = some { u with fb := fb, cursorX := x } := by
  let g := glyphFor s.cfg font ch
  let P := bitmapPoints (coord s.cursorX) (coord s.cursorY) g.gw.toNat g.gh.toNat g.gb
  by_cases h : s.cfg.w < s.cursorX.toNat + g.gw.toNat
  · refine .inl fun u ⟨hc, _, hx, _⟩ => ?_
    simpa only [putGlyph, hc, hx] using if_pos h
  · refine .inr ⟨(paint s P c).fb, BitVec.ofNat 16 (s.cursorX.toNat + g.gw.toNat),
      fun hs => ⟨paint_wf P c hs.1, paint_bound P c hs.2⟩, fun u ⟨hc, hf, hx, hy⟩ => ?_⟩
    simp only [putGlyph, paint, hc, hf, hx, hy]
    exact if_neg h

theorem drawsAlike_writeChars (c : Colour) (font : Byte) (chars : List Byte) (s : State) :
    DrawsAlike (fun u => .next (writeChars c font chars u)) s := by
  induction chars generalizing s with
  | nil =>
    refine ⟨s.fb, s.cursorX, s.cursorY, .ok, 0, id, fun _ => rfl, fun u ⟨_, hf, hx, hy⟩ => ?_⟩
    simp only [writeChars, ← hf, ← hx, ← hy]
  | cons ch rest ih =>
    obtain hn | ⟨fb, x, hfb, hs⟩ := putGlyph_alike c font ch s
    · refine ⟨s.fb, s.cursorX, s.cursorY, .glyphOverflow, ch, id, fun h => absurd rfl h, fun u hu => ?_⟩
      obtain ⟨-, hf, hx, hy⟩ := id hu
      simp only [writeChars, hn u hu, ← hf, ← hx, ← hy]
    · obtain ⟨fb', x', y', st, v, hfb', hv, hall⟩ := ih { s with fb := fb, cursorX := x }
      refine ⟨fb', x', y', st, v, fun h => hfb' (hfb h), hv, fun u hu => ?_⟩
      simp only [writeChars, hs u hu]
      exact hall { u with fb := fb, cursorX := x } ⟨hu.1, rfl, rfl, hu.2.2.2⟩

/-- WRITECHAR is WRITESTRING of one character (R203, R205). -/
theorem execWriteChar_eq (c : Colour) (font ch : Byte) (s : State) :
    execWriteChar c font ch s = .next (writeChars c font [ch] s) := by
  rfl

/-- Every drawing operation completes once, and neither looks at the controller nor touches it (R160, R275). -/
theorem exec_drawing {i : Instr} (h : isDrawing i = true) (s : State) : DrawsAlike (exec i) s := by
  cases i with
  | setPixel c x y => exact drawsAlike_paint (fun _ => [(coord x, coord y)]) c s
  | fill c => exact drawsAlike_fill (fillByte c) s
  | loadRaw bytes => exact drawsAlike_loadRaw bytes s
  | setCursor x y => exact ⟨s.fb, x, y, .ok, 0, id, fun _ => rfl, fun u ⟨_, hf, _⟩ => by rw [← hf]; rfl⟩
  | line c x0 y0 x1 y1 => exact drawsAlike_paint (fun _ => linePts (coord x0) (coord y0) (coord x1) (coord y1)) c s
  | rect c x0 y0 x1 y1 => exact drawsAlike_paint (fun _ => rectPts (coord x0) (coord y0) (coord x1) (coord y1)) c s
  | fillRect c x0 y0 x1 y1 =>
    exact drawsAlike_paint (fun _ => fillRectPts (coord x0) (coord y0) (coord x1) (coord y1)) c s
  | circle c cx cy r => exact drawsAlike_paint (fun _ => circlePts (coord cx) (coord cy) r.toNat) c s
  | fillCircle c cx cy r => exact drawsAlike_paint (fun _ => fillCirclePts (coord cx) (coord cy) r.toNat) c s
  | arc c cx cy r start sweep =>
    exact drawsAlike_paint
      (fun g => arcPts g.arcStep (coord cx) (coord cy) r.toNat start.toNat sweep.toNat) c s
  | arcRL c cx cy r start sweep =>
    exact drawsAlike_paint
      (fun g => arcRLPts g.arcStep (coord cx) (coord cy) r.toNat start.toNat sweep.toNat) c s
  | polyline c vs => exact drawsAlike_paint (fun _ => polylinePts vs) c s
  | bitmap c x y w ht bytes =>
    exact drawsAlike_paint (fun _ => bitmapPoints (coord x) (coord y) w.toNat ht.toNat bytes) c s
  | writeChar c font ch =>
    have he : exec (.writeChar c font ch) = fun u => .next (writeChars c font [ch] u) :=
      funext fun u => execWriteChar_eq c font ch u
    exact he ▸ drawsAlike_writeChars c font [ch] s
  | writeString c font chars => exact drawsAlike_writeChars c font chars s
  | _ => cases h

/-! ### Controller operations -/

/-- What follows the last request of an operation of R275: SETDISPLAYON alone writes ctrlState (R241). -/
def ctrlTail : Instr → List Micro
  | .setDisplayOn on => [.setCtrl (if on then .initOn else .initOff)]
  | _ => []

theorem append_ctrlTail {i : Instr} (h : ctrlTail i = []) (p : List Micro) : p ++ ctrlTail i = p := by
  rw [h, List.append_nil]

theorem sendSeq_eq (bs : List Byte) : sendSeq bs = (cmds bs).map .tx := by simp [sendSeq, cmds]

theorem flushPages_eq (cfg : Config) (m : Memory) : flushPages cfg m = (flushRequests cfg m).map .tx := by
  simp [flushPages, flushRequests, sendSeq, cmds, pageBytes, List.map_flatMap, Function.comp_def]

/-- INIT's flush sends what FLUSH sends of a cleared FB (R224). -/
theorem initRequests_eq (cfg : Config) : initRequests cfg = cmds (initBytes cfg) ++ flushRequests cfg [] := by
  simp [initRequests, flushRequests]

/-- INIT is its command bytes, then InitOn, the clear and a flush (R224). -/
theorem initProg_eq (cfg : Config) :
    initProg cfg = (cmds (initBytes cfg)).map .tx
      ++ .setCtrl .initOn :: .clearFb :: ((flushRequests cfg []).map .tx ++ []) := by
  rw [initProg, sendSeq_eq, flushPages_eq, List.append_nil, List.append_assoc]
  rfl

theorem hasAnswer_cmds {bs : List Byte} {r : TxRequest} (h : r ∈ cmds bs) : hasAnswer r = true := by
  obtain ⟨b, -, rfl⟩ := List.mem_map.mp h
  rfl

theorem hasAnswer_flushRequests {cfg : Config} {m : Memory} {r : TxRequest} (h : r ∈ flushRequests cfg m) :
    hasAnswer r = true := by
  obtain ⟨p, -, hr⟩ := List.mem_flatMap.mp h
  rcases List.mem_append.mp hr with hr | hr
  · rcases List.mem_append.mp hr with hr | hr <;> exact hasAnswer_cmds hr
  · rw [List.mem_singleton.mp hr]
    rfl

/-- An operation of R275 is its requests, each with an answer, then its tail, once ctrlState is past its check. -/
theorem exec_needsInit {i : Instr} (h : needsInit i = true) (s : State) :
    ∃ rs, requestsOf s i = some rs ∧ (∀ r ∈ rs, hasAnswer r = true)
      ∧ exec i s = .next (whenInitialized s (runProg none (rs.map .tx ++ ctrlTail i))) := by
  cases i with
  | flush => exact ⟨_, rfl, fun _ => hasAnswer_flushRequests, by rw [← flushPages_eq, append_ctrlTail rfl]; rfl⟩
  | setDisplayOn on => exact ⟨_, rfl, fun _ => hasAnswer_cmds, by rw [← sendSeq_eq]; rfl⟩
  | setContrast v => exact ⟨_, rfl, fun _ => hasAnswer_cmds, by rw [← sendSeq_eq, append_ctrlTail rfl]; rfl⟩
  | invertDisplay on => exact ⟨_, rfl, fun _ => hasAnswer_cmds, by rw [← sendSeq_eq, append_ctrlTail rfl]; rfl⟩
  | stopScroll => exact ⟨_, rfl, fun _ => hasAnswer_cmds, by rw [← sendSeq_eq, append_ctrlTail rfl]; rfl⟩
  | scrollR a b | scrollL a b | scrollDR a b | scrollDL a b =>
    refine ⟨_, rfl, fun _ => hasAnswer_cmds, ?_⟩
    rw [← sendSeq_eq, append_ctrlTail rfl, sendSeq, List.map_append]
    rfl
  | _ => cases h

/-- The four kinds of operation: drawing, INIT, RESET, and those R275 refuses while Uninitialized. -/
theorem instr_kinds (i : Instr) : isDrawing i = true ∨ i = .init ∨ i = .reset ∨ needsInit i = true := by
  cases i with
  | init => exact .inr (.inl rfl)
  | reset => exact .inr (.inr (.inl rfl))
  | flush | setContrast | setDisplayOn | invertDisplay | scrollR | scrollL | scrollDR | scrollDL | stopScroll =>
    exact .inr (.inr (.inr rfl))
  | _ => exact .inl rfl

theorem lineSafe_requests {rs : List TxRequest} (h : ∀ r ∈ rs, hasAnswer r = true) {rest : List Micro}
    (hr : lineSafe false rest) : lineSafe false (rs.map .tx ++ rest) := by
  induction rs with
  | nil => exact hr
  | cons r rs ih =>
    obtain ⟨ha, hrs⟩ := List.forall_mem_cons.mp h
    cases r with
    | cmd b => exact ⟨rfl, ih hrs⟩
    | data bs => exact ⟨rfl, ih hrs⟩
    | reset active => cases ha
    | delay ms => cases ha

theorem ctrlTail_lineSafe (i : Instr) : lineSafe false (ctrlTail i) := by cases i <;> rfl

/-- What an instruction can do: draw, complete NOT_INIT, or run a program that releases the reset line (R272, R275). -/
theorem exec_cases (i : Instr) (s : State) : ∃ t, exec i s = .next t ∧
    ((∃ fb x y st v, (FbOk s → FbOk { s with fb := fb }) ∧ (st ≠ .glyphOverflow → v = 0)
        ∧ t = complete { s with fb := fb, cursorX := x, cursorY := y } st v)
      ∨ t = complete s .notInit 0
      ∨ ∃ f p c, lineSafe false p ∧ t = runProg f p { s with ctrlState := c }) := by
  obtain h | rfl | rfl | h := instr_kinds i
  · obtain ⟨fb, x, y, st, v, hfb, hv, hall⟩ := exec_drawing h s
    exact ⟨_, hall s (.refl s), .inl ⟨fb, x, y, st, v, hfb, hv, rfl⟩⟩
  · exact ⟨_, rfl, .inr (.inr ⟨_, _, _, initProg_lineSafe s.cfg, rfl⟩)⟩
  · exact ⟨_, rfl, .inr (.inr ⟨none, _, s.ctrlState, resetProg_lineSafe s.cfg false, rfl⟩)⟩
  · obtain ⟨rs, -, ha, he⟩ := exec_needsInit h s
    refine ⟨_, he, .inr ?_⟩
    obtain ⟨-, hn⟩ | ⟨-, hk⟩ := whenInitialized_cases s (runProg none (rs.map .tx ++ ctrlTail i))
    · exact .inl hn
    · exact .inr ⟨none, _, s.ctrlState, lineSafe_requests ha (ctrlTail_lineSafe i), hk⟩

/-! ### What one step posts -/

/-- One completion with a VALUE that R46 allows. -/
def Posted (s t : State) : Prop := ∃ st v, Completed s t st v ∧ (st ≠ .glyphOverflow → v = 0)

/-- Nothing was posted. -/
def NothingPosted (s t : State) : Prop := t.doneCount = s.doneCount ∧ t.result = s.result ∧ t.err = s.err

theorem posted_complete {s t : State} (hd : t.doneCount = s.doneCount) (he : t.err = s.err) {st : Status} {v : Byte}
    (hv : st ≠ .glyphOverflow → v = 0) : Posted s (complete t st v) :=
  ⟨st, v, completed_complete hd he st v, hv⟩

theorem runProg_posts (f : Option CtrlState) (p : List Micro) (s : State) :
    Posted s (runProg f p s) ∨ NothingPosted s (runProg f p s) := by
  obtain h | h | ⟨-, h⟩ := runProg_cases f p s
  · exact .inl ⟨.ok, 0, h, fun _ => rfl⟩
  · exact .inl ⟨.busError, 0, h, fun _ => rfl⟩
  · exact .inr h

theorem takeAnswer_posts (w : Wait) (a : TxAnswer) (s : State) :
    Posted s (takeAnswer w a s) ∨ NothingPosted s (takeAnswer w a s) := by
  cases a with
  | ok => exact runProg_posts w.failTo w.rest s
  | busError => exact .inl (posted_complete rfl rfl fun _ => rfl)

theorem resume_posts (w : Wait) (s : State) : Posted s (resume w s) ∨ NothingPosted s (resume w s) := by
  obtain ⟨-, h⟩ | ⟨-, -, h⟩ | ⟨-, a, as, -, h⟩ := resume_cases w s <;> rw [h]
  · exact runProg_posts w.failTo w.rest s
  · exact .inr ⟨rfl, rfl, rfl⟩
  · exact takeAnswer_posts w a { s with txAnswers := as }

theorem exec_posts (i : Instr) (s : State) :
    ∃ t, exec i s = .next t ∧ (Posted s t ∨ NothingPosted s t) := by
  obtain ⟨t, he, ⟨fb, x, y, st, v, -, hv, rfl⟩ | rfl | ⟨f, p, c, -, rfl⟩⟩ := exec_cases i s
  · exact ⟨_, he, .inl (posted_complete rfl rfl hv)⟩
  · exact ⟨_, he, .inl (posted_complete rfl rfl fun _ => rfl)⟩
  · exact ⟨_, he, runProg_posts f p { s with ctrlState := c }⟩

/-! ### The engine's turn -/

/-- What is left of Q after a decoded descriptor (R103). -/
theorem decode_rest {h : Word} {ws : List Word} {i : Instr} {rest : List Word} (he : decode (h :: ws) = .ok (i, rest)) :
    rest = ws.drop (nField h) := by
  simp only [decode] at he
  split at he
  · cases he
  · cases hd : decodeDescriptor h (ws.take (nField h)) with
    | error e => rw [hd] at he; cases he
    | ok j => rw [hd] at he; cases he; rfl

/-- Everything an engine step can do (R273). -/
inductive EngineStep (s : State) : State → Prop
  | wait : EngineStep s s
  | enterDiscard (q : List Word) (k : Nat) : s.phase = .idle → q.length ≤ s.queue.length →
      s.cfg.cmdqDepth < 1 + k → k ≤ 65535 → EngineStep s { s with queue := q, phase := .discard k }
  | run (q : List Word) (i : Instr) (t : State) : s.phase = .idle → q.length ≤ s.queue.length →
      exec i { s with queue := q } = .next t → EngineStep s t
  | dropWord (q : List Word) (k : Nat) : s.phase = .discard (k + 1) → 1 ≤ k → q.length ≤ s.queue.length →
      EngineStep s { s with queue := q, phase := .discard k }
  | illegal (q : List Word) : (∀ w, s.phase ≠ .exec w) → q.length ≤ s.queue.length →
      EngineStep s (complete { s with queue := q } .illegal 0)
  | resume (w : Wait) : s.phase = .exec w → EngineStep s (resume w s)

theorem takeDescriptor_cases (h : Word) (ws : List Word) (s : State) (hp : s.phase = .idle) (hq : s.queue = h :: ws) :
    ∃ t, takeDescriptor h ws s = .next t ∧ EngineStep s t := by
  have hl : ws.length ≤ s.queue.length := by rw [hq]; exact Nat.le_succ _
  have hd : (ws.drop (nField h)).length ≤ s.queue.length := by rw [List.length_drop]; omega
  unfold takeDescriptor
  split
  · next hk => exact ⟨_, rfl, .enterDiscard ws _ hp hl hk (Nat.le_of_lt_succ (BitVec.isLt _))⟩
  · split
    · exact ⟨s, rfl, .wait⟩
    · split
      · next i rest he =>
        rw [← decode_rest he] at hd
        obtain ⟨t, ht, -⟩ := exec_cases i { s with queue := rest }
        exact ⟨t, ht, .run rest i t hp hd ht⟩
      · exact ⟨_, rfl, .illegal _ (fun w e => by rw [hp] at e; cases e) hd⟩

theorem discardWord_cases (k : Nat) (v : Word) (ws : List Word) (s : State) (hp : s.phase = .discard k)
    (hq : s.queue = v :: ws) : EngineStep s (discardWord k ws s) := by
  have hl : ws.length ≤ s.queue.length := by rw [hq]; exact Nat.le_succ _
  unfold discardWord
  split
  · exact .illegal ws (fun w e => by rw [hp] at e; cases e) hl
  · exact .dropWord ws (k - 1) (by rw [hp, Nat.sub_add_cancel (by omega)]) (by omega) hl

theorem engineTurn_cases (s : State) : ∃ t, engineTurn s = .next t ∧ EngineStep s t := by
  unfold engineTurn
  split
  · next hp =>
    split
    · exact ⟨s, rfl, .wait⟩
    · next h ws hq => exact takeDescriptor_cases h ws s hp hq
  · next k hp =>
    split
    · exact ⟨s, rfl, .wait⟩
    · next v ws hq => exact ⟨_, rfl, discardWord_cases k v ws s hp hq⟩
  · next w hp => exact ⟨_, rfl, .resume w hp⟩

theorem engineStep_posts {s t : State} (h : EngineStep s t) : Posted s t ∨ NothingPosted s t := by
  cases h with
  | wait | enterDiscard | dropWord => exact .inr ⟨rfl, rfl, rfl⟩
  | run q i _ _ _ he =>
    obtain ⟨t', ht', hp⟩ := exec_posts i { s with queue := q }
    obtain rfl := next_unique he ht'
    exact hp
  | illegal q => exact .inl (posted_complete rfl rfl fun _ => rfl)
  | resume w => exact resume_posts w s

/-! ### The invariant of the engine -/

theorem statusCode_le (st : Status) : (statusCode st).toNat ≤ 5 := by cases st <;> decide

theorem resultOk_of_posts {s t : State} (hp : Posted s t ∨ NothingPosted s t) (h : ResultOk s) : ResultOk t := by
  obtain ⟨st, v, ⟨-, hd, hc, hv, hr, -⟩, hz⟩ | ⟨hd, hr, -⟩ := hp
  · refine ⟨hr.trans hd.symm, hc ▸ statusCode_le st, fun hne => ?_⟩
    rw [hv]
    exact hz fun e => hne (hc.trans (e ▸ rfl))
  · rw [ResultOk, hd, hr]
    exact h

theorem phaseOk_idle {s : State} (hp : s.phase = .idle) : PhaseOk s ↔ s.resetLine = false := by simp [PhaseOk, hp]

theorem phaseOk_discard {s : State} {k : Nat} (hp : s.phase = .discard k) :
    PhaseOk s ↔ s.resetLine = false ∧ 1 ≤ k ∧ k ≤ 65535 := by simp [PhaseOk, hp]

theorem phaseOk_exec {s : State} {w : Wait} (hp : s.phase = .exec w) :
    PhaseOk s ↔ (hasAnswer w.awaiting = true → s.txAnswers = [] ∧ s.resetLine = false)
      ∧ (∀ active, w.awaiting ≠ .reset active) ∧ lineSafe s.resetLine w.rest := by simp [PhaseOk, hp]

theorem line_released {s : State} (h : Inv s) (hp : ∀ w, s.phase ≠ .exec w) : s.resetLine = false := by
  cases hs : s.phase with
  | idle => exact (phaseOk_idle hs).mp h.phase
  | discard k => exact ((phaseOk_discard hs).mp h.phase).1
  | exec w => exact absurd hs (hp w)

theorem queueOk_of_le {s t : State} (h : QueueOk s) (hc : t.cfg = s.cfg) (hl : t.queue.length ≤ s.queue.length) :
    QueueOk t := by
  unfold QueueOk at *
  rw [hc]
  exact hl.trans h

theorem complete_inv {s : State} (hf : FbOk s) (hq : QueueOk s) (hr : ResultOk s) (hl : s.resetLine = false)
    {st : Status} {v : Byte} (hv : st ≠ .glyphOverflow → v = 0) : Inv (complete s st v) :=
  { fb := hf, queue := hq, result := resultOk_of_posts (.inl (posted_complete rfl rfl hv)) hr, phase := hl }

theorem runProg_inv {s : State} (f : Option CtrlState) (p : List Micro) (hf : FbOk s) (hq : QueueOk s)
    (hr : ResultOk s) (hl : lineSafe s.resetLine p) : Inv (runProg f p s) :=
  let ⟨⟨hc, hqe, _⟩, _⟩ := runProg_frame f p s
  { fb := runProg_fbOk f p s hf
    queue := queueOk_of_le hq hc (by rw [hqe])
    result := resultOk_of_posts (runProg_posts f p s) hr
    phase := runProg_phaseOk f p s hl }

theorem exec_inv {i : Instr} {s t : State} (hf : FbOk s) (hq : QueueOk s) (hr : ResultOk s)
    (hl : s.resetLine = false) (he : exec i s = .next t) : Inv t := by
  obtain ⟨t', ht', hcases⟩ := exec_cases i s
  obtain rfl := next_unique he ht'
  obtain ⟨fb, x, y, st, v, hfb, hv, rfl⟩ | rfl | ⟨f, p, c, hp, rfl⟩ := hcases
  · exact complete_inv (s := { s with fb := fb, cursorX := x, cursorY := y }) (hfb hf) hq hr hl hv
  · exact complete_inv hf hq hr hl fun _ => rfl
  · exact runProg_inv (s := { s with ctrlState := c }) f p hf hq hr (hl ▸ hp)

theorem takeAnswer_inv {w : Wait} {s : State} (h : Inv s) (hp : s.phase = .exec w) (ha : hasAnswer w.awaiting = true)
    (a : TxAnswer) : Inv (takeAnswer w a s) := by
  obtain ⟨hw, -, hl⟩ := (phaseOk_exec hp).mp h.phase
  cases a with
  | ok => exact runProg_inv w.failTo w.rest h.fb h.queue h.result hl
  | busError =>
    exact complete_inv (s := { s with ctrlState := w.failTo.getD s.ctrlState }) h.fb h.queue h.result (hw ha).2
      fun _ => rfl

/-- An engine that waits for an answer has none ready, so a step in Exec either waits or runs on after a TxDelay. -/
theorem resume_inv {w : Wait} {s : State} (h : Inv s) (hp : s.phase = .exec w) : Inv (resume w s) := by
  obtain ⟨hw, -, hl⟩ := (phaseOk_exec hp).mp h.phase
  obtain ⟨-, he⟩ | ⟨-, -, he⟩ | ⟨ha, a, as, hs, -⟩ := resume_cases w s
  · rw [he]
    exact runProg_inv w.failTo w.rest h.fb h.queue h.result hl
  · rwa [he]
  · rw [(hw ha).1] at hs
    cases hs

theorem engineStep_inv {s t : State} (h : Inv s) (hs : EngineStep s t) : Inv t := by
  cases hs with
  | wait => exact h
  | enterDiscard q k hp hq hd hk =>
    have h2 : 2 ≤ s.cfg.cmdqDepth := (config_legal s.cfg).2.2.2.2.2.2.2.2
    exact { fb := h.fb, queue := queueOk_of_le h.queue rfl hq, result := h.result,
            phase := ⟨(phaseOk_idle hp).mp h.phase, by omega, hk⟩ }
  | run q i _ hp hq he =>
    exact exec_inv (s := { s with queue := q }) h.fb (queueOk_of_le h.queue rfl hq) h.result
      ((phaseOk_idle hp).mp h.phase) he
  | dropWord q k hp hk hq =>
    obtain ⟨hl, -, hk'⟩ := (phaseOk_discard hp).mp h.phase
    exact { fb := h.fb, queue := queueOk_of_le h.queue rfl hq, result := h.result,
            phase := ⟨hl, hk, Nat.le_of_succ_le hk'⟩ }
  | illegal q hp hq =>
    have hl := line_released h hp
    exact complete_inv (s := { s with queue := q }) h.fb (queueOk_of_le h.queue rfl hq) h.result hl
      fun _ => rfl
  | resume w hp => exact resume_inv h hp

theorem engineTurn_inv {s t : State} (h : Inv s) (he : engineTurn s = .next t) : Inv t := by
  obtain ⟨t', ht', hs⟩ := engineTurn_cases s
  obtain rfl := next_unique he ht'
  exact engineStep_inv h hs

theorem answerTurn_inv {s : State} (h : Inv s) (a : TxAnswer) : Inv (answerTurn a s) := by
  unfold answerTurn
  split
  · next w hp =>
    split
    · next ha => exact takeAnswer_inv h hp ha a
    · exact h
  · exact h
  · exact h

/-! ### The host's turn -/

theorem SameBlock.refl (s : State) : SameBlock s s :=
  ⟨rfl, rfl, .refl s, ⟨rfl, rfl, rfl, rfl, rfl⟩, rfl, rfl, rfl⟩

/-- A CMD write goes to Q, which has room for it, or is held (R74). -/
theorem pushCmd_cases (s : State) (v : Word) :
    (s.queue.length < s.cfg.cmdqDepth ∧ pushCmd s v = { s with queue := s.queue ++ [v] })
      ∨ (s.cfg.cmdqDepth ≤ s.queue.length ∧ pushCmd s v = { s with held := some v }) := by
  by_cases h : s.queue.length < s.cfg.cmdqDepth
  · exact .inl ⟨h, if_pos h⟩
  · exact .inr ⟨Nat.le_of_not_lt h, if_neg h⟩

theorem pushCmd_block (s : State) (v : Word) : SameBlock s (pushCmd s v) ∧ (QueueOk s → QueueOk (pushCmd s v)) := by
  obtain ⟨h, e⟩ | ⟨-, e⟩ := pushCmd_cases s v <;> rw [e]
  · exact ⟨.refl s, fun _ => by simpa [QueueOk] using h⟩
  · exact ⟨.refl s, id⟩

theorem hostWrite_block (s : State) (off : Nat) (v : Word) :
    SameBlock s (hostWrite s off v) ∧ (QueueOk s → QueueOk (hostWrite s off v)) := by
  unfold hostWrite
  split
  · exact pushCmd_block s v
  · split
    · exact ⟨.refl s, id⟩
    · exact ⟨.refl s, id⟩

theorem hostAccess_block {a : HostAccess} {s t : State} (h : hostAccess a s = .next t) :
    SameBlock s t ∧ (QueueOk s → QueueOk t) := by
  cases a with
  | read width addr =>
    simp only [hostAccess] at h
    split at h
    · next off _ =>
      split at h <;> cases h
      exact ⟨.refl s, id⟩
    · cases h
  | write width addr v =>
    simp only [hostAccess] at h
    split at h
    · next off _ =>
      split at h <;> cases h
      exact hostWrite_block s off v
    · cases h

/-- No turn of the host touches the block but for Q, which it keeps within its depth, and ERR (R72, R77). -/
theorem hostTurn_block {s t : State} (h : hostTurn s = .next t) : SameBlock s t ∧ (QueueOk s → QueueOk t) := by
  unfold hostTurn at h
  split at h
  · next v _ =>
    cases h
    exact pushCmd_block { s with held := none } v
  · split at h
    · cases h
      exact ⟨.refl s, id⟩
    · next a ops _ => exact hostAccess_block (s := { s with hostOps := ops }) h

theorem hostTurn_inv {s t : State} (h : Inv s) (ht : hostTurn s = .next t) : Inv t := by
  obtain ⟨⟨hc, hf, -, ⟨-, hl, -, ha, -⟩, hp, hr, hd⟩, hq⟩ := hostTurn_block ht
  refine { fb := ?_, queue := hq h.queue, result := ?_, phase := ?_ }
  · rw [FbOk, hc, hf]
    exact h.fb
  · rw [ResultOk, hr, hd]
    exact h.result
  · rw [PhaseOk, hp, hl, ha]
    exact h.phase

/-! ### Every step -/

/-- Settles O11, invariant by invariant. -/
theorem resetMeetsTheInvariant : Obligations.ResetMeetsTheInvariant :=
  { fb := ⟨wf_nil, fun _ hc => absurd hc List.not_mem_nil⟩
    queue := Nat.zero_le _
    result := ⟨rfl, by decide, fun _ => rfl⟩
    phase := rfl }

theorem blockReset_inv (s : State) : Inv (blockReset s) :=
  { fb := ⟨wf_nil, fun _ hc => absurd hc List.not_mem_nil⟩
    queue := Nat.zero_le _
    result := resetMeetsTheInvariant.result
    phase := rfl }

theorem takeTurn_inv {t : Turn} {s u : State} (h : Inv s) (hu : takeTurn t s = .next u) : Inv u := by
  cases t with
  | engine => exact engineTurn_inv h hu
  | host => exact hostTurn_inv h hu
  | both =>
    simp only [takeTurn] at hu
    split at hu
    · next s' hs => exact engineTurn_inv (hostTurn_inv h hs) hu
    · cases hu
    · cases hu
  | answer a =>
    cases hu
    exact answerTurn_inv h a
  | blockReset =>
    cases hu
    exact blockReset_inv s

/-- Settles O10: each agent's turn keeps the invariant. -/
theorem stepKeepsTheInvariant : Obligations.StepKeepsTheInvariant := by
  intro s t h ht
  unfold step at ht
  split at ht
  · exact engineTurn_inv h ht
  · next turn ts _ =>
    have h' : Inv { s with schedule := ts } :=
      { fb := h.fb, queue := h.queue, result := h.result, phase := h.phase }
    exact takeTurn_inv h' ht

end Sys2Proof.Machine
end

section
namespace Sys2Proof.Machine

/-! ## Waiting, answers and the controller's requests -/

/-! ### Runs of engine steps -/

theorem run_succ {s t : State} (h : step s = .next t) (n : Nat) :
    Host.Core.run Sys2Proof.core (n + 1) s = Host.Core.run Sys2Proof.core n t := by
  have h' : Sys2Proof.core.step s = .next t := h
  simp only [Host.Core.run, h']

theorem run_wait {s : State} (h : step s = .next s) (n : Nat) : Host.Core.run Sys2Proof.core n s = .next s := by
  induction n with
  | zero => rfl
  | succ n ih => rw [run_succ h, ih]

theorem step_engine {s : State} (h : s.schedule = []) : step s = engineTurn s := by simp [step, h]

theorem engineTurn_exec {s : State} {w : Wait} (h : s.phase = .exec w) : engineTurn s = .next (resume w s) := by
  simp [engineTurn, h]

theorem resume_waits {w : Wait} {s : State} (ha : hasAnswer w.awaiting = true) (hs : s.txAnswers = []) :
    resume w s = s := by simp [resume, ha, hs]

theorem resume_runs {w : Wait} (ha : hasAnswer w.awaiting = false) (s : State) :
    resume w s = runProg w.failTo w.rest s := by simp [resume, ha]

theorem isBusy_of_phase {s : State} (h : s.phase ≠ .idle) : isBusy s = true := by simp [isBusy, h]

theorem isBusy_of_queue {s : State} (h : s.queue ≠ []) : isBusy s = true := by simp [isBusy, h]

/-- Settles O9, one clause per thing the engine can wait for. -/
theorem engineWaitsForWordsAndAnswers : Obligations.EngineWaitsForWordsAndAnswers := by
  intro s hs
  rw [step_engine hs]
  refine ⟨fun hp hq => ?_, fun h ws hp hq hd hl => ⟨?_, isBusy_of_queue (by simp [hq])⟩,
    fun k hp hq => ⟨?_, isBusy_of_phase (by simp [hp])⟩, fun w hp => ⟨fun ha has => ?_, fun ha => ?_⟩⟩
  · simp [engineTurn, hp, hq]
  · simp [engineTurn, hp, hq, takeDescriptor, Nat.not_lt.mpr hd, hl]
  · simp [engineTurn, hp, hq]
  · refine ⟨isBusy_of_phase (by simp [hp]), run_wait ?_⟩
    rw [step_engine hs, engineTurn_exec hp, resume_waits ha has]
  · rw [engineTurn_exec hp, resume_runs ha]

/-! ### Answers that are ready, and answers that come one by one -/

theorem answerTurn_ignored {s : State} (h : ∀ w, s.phase = .exec w → hasAnswer w.awaiting = false) (a : TxAnswer) :
    answerTurn a s = s := by
  unfold answerTurn
  split
  · next w hp => simp [h w hp]
  · rfl
  · rfl

theorem answerTurns_ignored {s : State} (h : ∀ w, s.phase = .exec w → hasAnswer w.awaiting = false)
    (as : List TxAnswer) : as.foldl (fun v a => answerTurn a v) s = s := by
  induction as with
  | nil => rfl
  | cons a as ih => rw [List.foldl_cons, answerTurn_ignored h, ih]

theorem answerTurn_exec {s : State} {w : Wait} (hp : s.phase = .exec w) (ha : hasAnswer w.awaiting = true)
    (a : TxAnswer) : answerTurn a s = takeAnswer w a s := by simp [answerTurn, hp, ha]

/-- A request with an answer takes the next one ready (R52). -/
theorem runProg_answered {r : TxRequest} (hr : hasAnswer r = true) (f : Option CtrlState) (rest : List Micro)
    {s : State} {a : TxAnswer} {as : List TxAnswer} (hs : s.txAnswers = a :: as) :
    runProg f (.tx r :: rest) s
      = takeAnswer { awaiting := r, rest := rest, failTo := f } a { issue s r with txAnswers := as } := by
  cases r with
  | cmd b | data bs => cases a <;> simp [runProg, finish, hs, takeAnswer]
  | reset active | delay ms => cases hr

/-- With none ready it waits (R52). -/
theorem runProg_unanswered {r : TxRequest} (hr : hasAnswer r = true) (f : Option CtrlState) (rest : List Micro)
    {s : State} (hs : s.txAnswers = []) :
    runProg f (.tx r :: rest) s = { issue s r with phase := .exec { awaiting := r, rest := rest, failTo := f } } := by
  cases r with
  | cmd b | data bs => simp [runProg, finish, hs]
  | reset active | delay ms => cases hr

/-- A TxDelay the step does not end in (log 7). -/
theorem runProg_delay_done (f : Option CtrlState) (ms : Half) (rest : List Micro) (s : State)
    (h : s.pauses.head? ≠ some true) :
    runProg f (.tx (.delay ms) :: rest) s = runProg f rest { issue s (.delay ms) with pauses := s.pauses.tail } := by
  obtain ⟨ps, hp⟩ : ∃ ps, s.pauses = ps := ⟨_, rfl⟩
  match ps with
  | [] => simp [runProg, finish, hp, issue]
  | false :: ps => simp [runProg, finish, hp]
  | true :: ps => simp [hp] at h

/-- A TxDelay the step ends in (log 7). -/
theorem runProg_delay_pause (f : Option CtrlState) (ms : Half) (rest : List Micro) (s : State) (ps : List Bool)
    (h : s.pauses = true :: ps) :
    runProg f (.tx (.delay ms) :: rest) s
      = { issue s (.delay ms) with
          pauses := ps, phase := .exec { awaiting := .delay ms, rest := rest, failTo := f } } := by
  simp [runProg, finish, h]

/-- The answer to a request that waits does what an answer that was ready would have done. -/
theorem answerTurn_waiting {r : TxRequest} (hr : hasAnswer r = true) (f : Option CtrlState) (rest : List Micro)
    (s : State) (a : TxAnswer) :
    answerTurn a { s with phase := .exec { awaiting := r, rest := rest, failTo := f } }
      = takeAnswer { awaiting := r, rest := rest, failTo := f } a s := by
  rw [answerTurn_exec rfl hr]
  cases a with
  | ok => exact runProg_phase f rest s _
  | busError => rfl

/-- What is left of a descriptor runs the same way whether its answers are ready or come one turn at a time. -/
theorem runProg_answers_later (f : Option CtrlState) (p : List Micro) (s : State) (as : List TxAnswer) :
    { runProg f p { s with txAnswers := as } with txAnswers := [] }
      = as.foldl (fun v a => answerTurn a v) (runProg f p { s with txAnswers := [] }) := by
  induction p generalizing s as with
  | nil => exact (answerTurns_ignored (fun _ h => by cases h) as).symm
  | cons m p ih =>
    cases m with
    | setCtrl c => exact ih { s with ctrlState := c } as
    | clearFb => exact ih (fillFb s 0) as
    | tx r =>
      cases hr : hasAnswer r with
      | true =>
        rw [runProg_unanswered hr f p (s := { s with txAnswers := [] }) rfl]
        cases as with
        | nil => rw [runProg_unanswered hr f p (s := { s with txAnswers := [] }) rfl]; rfl
        | cons a as =>
          have hwait := answerTurn_waiting hr f p { issue s r with txAnswers := [] } a
          rw [runProg_answered hr f p (s := { s with txAnswers := a :: as }) rfl, List.foldl_cons]
          refine Eq.trans ?_ (congrArg (as.foldl fun v a => answerTurn a v) hwait.symm)
          cases a with
          | ok => exact ih (issue s r) as
          | busError => exact (answerTurns_ignored (fun _ h => by cases h) as).symm
      | false =>
        cases r with
        | cmd b | data bs => cases hr
        | reset active => exact ih (issue s (.reset active)) as
        | delay ms =>
          by_cases hh : s.pauses.head? = some true
          · obtain ⟨ps, hps⟩ := List.head?_eq_some_iff.mp hh
            rw [runProg_delay_pause f ms p { s with txAnswers := as } ps hps,
              runProg_delay_pause f ms p { s with txAnswers := [] } ps hps]
            exact (answerTurns_ignored (fun _ hw => by cases hw; rfl) as).symm
          · rw [runProg_delay_done f ms p { s with txAnswers := as } hh,
              runProg_delay_done f ms p { s with txAnswers := [] } hh]
            exact ih { issue s (.delay ms) with pauses := s.pauses.tail } as

theorem exec_init (s : State) :
    exec .init s = .next (runProg (some .uninitialized) (initProg s.cfg) { s with ctrlState := .uninitialized }) := rfl

theorem exec_reset (s : State) : exec .reset s = .next (runProg none (resetProg s.cfg) s) := rfl

theorem requestsOf_answers (s : State) (i : Instr) (as : List TxAnswer) :
    requestsOf { s with txAnswers := as } i = requestsOf s i := by cases i <;> rfl

/-- Settles O14, by kind of operation: only a controller descriptor takes answers. -/
theorem readyAnswersEqualOneTurnPerAnswer : Obligations.ReadyAnswersEqualOneTurnPerAnswer := by
  intro i s as t u ht hu
  obtain h | rfl | rfl | h := instr_kinds i
  · obtain ⟨fb, x, y, st, v, -, -, hall⟩ := exec_drawing h s
    obtain rfl := next_unique (hall { s with txAnswers := as } (.refl s)) ht
    obtain rfl := next_unique (hall { s with txAnswers := [] } (.refl s)) hu
    exact (answerTurns_ignored (fun _ h => by cases h) as).symm
  · obtain rfl := next_unique (exec_init _) ht
    obtain rfl := next_unique (exec_init _) hu
    exact runProg_answers_later _ (initProg s.cfg) { s with ctrlState := .uninitialized } as
  · obtain rfl := next_unique (exec_reset _) ht
    obtain rfl := next_unique (exec_reset _) hu
    exact runProg_answers_later none (resetProg s.cfg) s as
  · obtain ⟨rs, hrs, -, he⟩ := exec_needsInit h { s with txAnswers := as }
    obtain ⟨rs', hrs', -, he'⟩ := exec_needsInit h { s with txAnswers := [] }
    rw [requestsOf_answers] at hrs hrs'
    cases hrs.symm.trans hrs'
    obtain rfl := next_unique he ht
    obtain rfl := next_unique he' hu
    by_cases hc : s.ctrlState = .uninitialized
    · simp only [whenInitialized, hc, if_true]
      exact (answerTurns_ignored (fun _ h => by cases h) as).symm
    · simp only [whenInitialized, hc, if_false]
      exact runProg_answers_later none _ s as

/-! ### The transitions of ctrlState -/

/-- A run of requests is sent to its end, or ends at a BUS_ERROR, which only an answer can say, or waits (R52, R221). -/
theorem runProg_requests_cases (f : Option CtrlState) (rs : List TxRequest) (rest : List Micro) (s : State) :
    ∃ line as ps log,
      runProg f (rs.map .tx ++ rest) s
          = runProg f rest { s with resetLine := line, txAnswers := as, pauses := ps, txLog := log }
        ∨ ((∃ r ∈ rs, hasAnswer r = true)
            ∧ runProg f (rs.map .tx ++ rest) s
              = busFailure f { s with resetLine := line, txAnswers := as, pauses := ps, txLog := log })
        ∨ (runProg f (rs.map .tx ++ rest) s).phase ≠ .idle := by
  induction rs generalizing s with
  | nil => exact ⟨s.resetLine, s.txAnswers, s.pauses, s.txLog, .inl rfl⟩
  | cons r rs ih =>
    rw [List.map_cons, List.cons_append]
    obtain ⟨as, ps, h | ⟨ha, h⟩ | ⟨-, -, h⟩⟩ := runProg_tx f r (rs.map .tx ++ rest) s <;> rw [h]
    · obtain ⟨line', as', ps', log', h' | ⟨⟨q, hq, ha⟩, h'⟩ | h'⟩ :=
        ih { issue s r with txAnswers := as, pauses := ps }
      · exact ⟨line', as', ps', log', .inl h'⟩
      · exact ⟨line', as', ps', log', .inr (.inl ⟨⟨q, List.mem_cons_of_mem _ hq, ha⟩, h'⟩)⟩
      · exact ⟨line', as', ps', log', .inr (.inr h')⟩
    · exact ⟨_, as, ps, _, .inr (.inl ⟨⟨r, List.mem_cons_self, ha⟩, rfl⟩)⟩
    · exact ⟨false, [], [], [], .inr (.inr (by simp))⟩

/-- The rows of R36 for INIT: InitOn after OK, Uninitialized after BUS_ERROR. -/
theorem runProg_init_ctrl (s : State) (h : (runProg (some .uninitialized) (initProg s.cfg) s).phase = .idle) :
    let t := runProg (some .uninitialized) (initProg s.cfg) s
    (resultCode t.result = statusCode .ok ∧ t.ctrlState = .initOn)
      ∨ (resultCode t.result = statusCode .busError ∧ t.ctrlState = .uninitialized) := by
  rw [initProg_eq] at h ⊢
  obtain ⟨line, as, ps, log, e | ⟨-, e⟩ | e⟩ := runProg_requests_cases (some .uninitialized)
    (cmds (initBytes s.cfg)) (.setCtrl .initOn :: .clearFb :: ((flushRequests s.cfg []).map .tx ++ [])) s
  · obtain ⟨line', as', ps', log', e' | ⟨-, e'⟩ | e'⟩ :=
      runProg_requests_cases (some .uninitialized) (flushRequests s.cfg []) [] (fillFb { s with
        ctrlState := .initOn, resetLine := line, txAnswers := as, pauses := ps, txLog := log } 0)
    · rw [e.trans e']
      exact .inl ⟨by simp [runProg], rfl⟩
    · rw [e.trans e']
      exact .inr ⟨by simp, rfl⟩
    · rw [e] at h
      exact absurd h e'
  · rw [e]
    exact .inr ⟨by simp, rfl⟩
  · exact absurd h e

/-- The rows of R36 for an operation of R275 past its check: OK with the ctrlState its tail writes, or BUS_ERROR. -/
theorem runProg_command_ctrl (i : Instr) (rs : List TxRequest) (s : State)
    (h : (runProg none (rs.map .tx ++ ctrlTail i) s).phase = .idle) :
    let t := runProg none (rs.map .tx ++ ctrlTail i) s
    (resultCode t.result = statusCode .ok ∧ t.ctrlState = commandCtrl i s.ctrlState)
      ∨ (resultCode t.result = statusCode .busError ∧ t.ctrlState = s.ctrlState) := by
  obtain ⟨line, as, ps, log, e | ⟨-, e⟩ | e⟩ := runProg_requests_cases none rs (ctrlTail i) s
  · rw [e]
    refine .inl ?_
    cases i with
    | setDisplayOn on => cases on <;> exact ⟨by simp [ctrlTail, runProg], rfl⟩
    | _ => exact ⟨by simp [ctrlTail, runProg], rfl⟩
  · rw [e]
    exact .inr ⟨by simp, rfl⟩
  · exact absurd h e

/-- RESET sends four requests, none with an answer, and leaves Uninitialized (R252). -/
theorem resetProg_eq (cfg : Config) :
    resetProg cfg = ([.reset true, .delay cfg.resetHoldMs, .reset false, .delay cfg.resetSettleMs] : List TxRequest).map
      .tx ++ [.setCtrl .uninitialized] := rfl

theorem runProg_reset_ctrl (s : State) (h : (runProg none (resetProg s.cfg) s).phase = .idle) :
    let t := runProg none (resetProg s.cfg) s
    resultCode t.result = statusCode .ok ∧ t.ctrlState = .uninitialized := by
  rw [resetProg_eq] at h ⊢
  obtain ⟨line, as, ps, log, e | ⟨⟨r, hr, ha⟩, -⟩ | e⟩ := runProg_requests_cases none
    [.reset true, .delay s.cfg.resetHoldMs, .reset false, .delay s.cfg.resetSettleMs] [.setCtrl .uninitialized] s
  · rw [e]
    exact ⟨by simp [runProg], rfl⟩
  · simp only [List.mem_cons, List.not_mem_nil, or_false] at hr
    obtain rfl | rfl | rfl | rfl := hr <;> cases ha
  · exact absurd h e

theorem not_needsInit_of_isDrawing {i : Instr} (h : isDrawing i = true) : needsInit i = false := by
  cases i with
  | flush | setContrast | setDisplayOn | invertDisplay | scrollR | scrollL | scrollDR | scrollDL | stopScroll => cases h
  | _ => rfl

theorem commandCtrl_of_ne {i : Instr} (h : ∀ on, i ≠ .setDisplayOn on) (c : CtrlState) : commandCtrl i c = c := by
  cases i with
  | setDisplayOn on => exact absurd rfl (h on)
  | _ => rfl

/-- Settles O17, by kind of operation. -/
theorem ctrlStateTransitions : Obligations.CtrlStateTransitions := by
  intro i s t ht hidle
  obtain h | rfl | rfl | h := instr_kinds i
  · obtain ⟨fb, x, y, st, v, -, -, hall⟩ := exec_drawing h s
    obtain rfl := next_unique (hall s (.refl s)) ht
    refine ⟨?_, ?_, ?_, fun hn => ?_, fun _ _ _ => rfl⟩
    · rintro rfl; cases h
    · rintro on rfl; cases h
    · rintro rfl; cases h
    · rw [not_needsInit_of_isDrawing h] at hn; cases hn
  · obtain rfl := next_unique (exec_init s) ht
    exact ⟨fun _ => runProg_init_ctrl { s with ctrlState := .uninitialized } hidle, fun _ h => (by cases h),
      fun h => (by cases h), fun h => (by cases h),
      fun h => absurd rfl h⟩
  · obtain rfl := next_unique (exec_reset s) ht
    exact ⟨fun h => (by cases h), fun _ h => (by cases h), fun _ => runProg_reset_ctrl s hidle, fun h => (by cases h),
      fun _ h => absurd rfl h⟩
  · obtain ⟨rs, -, -, he⟩ := exec_needsInit h s
    obtain rfl := next_unique he ht
    have hi : i ≠ .init := by rintro rfl; cases h
    have hr : i ≠ .reset := by rintro rfl; cases h
    obtain ⟨hc, e⟩ | ⟨hc, e⟩ := whenInitialized_cases s (runProg none (rs.map .tx ++ ctrlTail i)) <;>
      rw [e] at hidle ⊢
    · exact ⟨fun h => absurd h hi, fun _ _ h => absurd hc h, fun h => absurd h hr, fun _ _ => ⟨by simp, hc⟩,
        fun _ _ _ => rfl⟩
    · have hctrl := runProg_command_ctrl i rs s hidle
      refine ⟨fun h => absurd h hi, ?_, fun h => absurd h hr, fun _ h => absurd h hc, fun _ _ hd => ?_⟩
      · rintro on rfl -
        cases on <;> exact hctrl
      · rw [commandCtrl_of_ne hd] at hctrl
        obtain ⟨-, h⟩ | ⟨-, h⟩ := hctrl <;> exact h

end Sys2Proof.Machine
end

section
namespace Sys2Proof.Machine

/-! ### Waiting at a request -/

theorem lineAfter_answered {r : TxRequest} (h : hasAnswer r = true) (line : Bool) : lineAfter line r = line := by
  cases r with
  | cmd b | data bs => rfl
  | reset active | delay ms => cases h

/-- A descriptor whose first k requests are answered OK waits at request k + 1, that one sent and no later one (R52). -/
theorem runProg_requests_wait (f : Option CtrlState) (rs : List TxRequest) (hrs : ∀ r ∈ rs, hasAnswer r = true)
    (rest : List Micro) (s : State) (k : Nat) (hk : k < rs.length) (hs : s.txAnswers = okAnswers k) :
    ∃ w, runProg f (rs.map .tx ++ rest) s
      = { s with txAnswers := [], txLog := s.txLog ++ rs.take (k + 1), phase := .exec w } := by
  induction rs generalizing s k with
  | nil => cases hk
  | cons r rs ih =>
    obtain ⟨hr, hrs⟩ := List.forall_mem_cons.mp hrs
    rw [List.map_cons, List.cons_append]
    cases k with
    | zero =>
      rw [runProg_unanswered hr f _ hs]
      exact ⟨{ awaiting := r, rest := rs.map .tx ++ rest, failTo := f },
        by simp [issue, lineAfter_answered hr, hs, okAnswers]⟩
    | succ k =>
      have hsent := runProg_answered hr f (rs.map .tx ++ rest) (as := okAnswers k) hs
      obtain ⟨w, hw⟩ := ih hrs { issue s r with txAnswers := okAnswers k } k (Nat.lt_of_succ_lt_succ hk) rfl
      exact ⟨w, (hsent.trans hw).trans (by simp [issue, lineAfter_answered hr])⟩

/-- INIT up to its final flush, every command byte answered OK: InitOn, FB cleared (R224). -/
theorem runProg_initBytes_ok (s : State) (as : List TxAnswer)
    (hs : s.txAnswers = okAnswers (initBytes s.cfg).length ++ as) :
    runProg (some .uninitialized) (initProg s.cfg) s
      = runProg (some .uninitialized) ((flushRequests s.cfg []).map .tx ++ [])
          (fillFb { s with ctrlState := .initOn, txAnswers := as, txLog := s.txLog ++ cmds (initBytes s.cfg) } 0) := by
  rw [initProg_eq, ← sendSeq_eq, runProg_sendSeq_ok _ _ _ s as hs]
  rfl

theorem okAnswers_add (m n : Nat) : okAnswers (m + n) = okAnswers m ++ okAnswers n := List.replicate_add ..

/-- An INIT that waits inside INIT_BYTES, and one that waits inside its final flush (R224). -/
theorem exec_init_wait (s : State) (k : Nat) (hk : k < (initRequests s.cfg).length) (hs : s.txAnswers = okAnswers k) :
    ∃ w c fb, exec .init s = .next { s with
        ctrlState := c, fb := fb, txAnswers := [], txLog := s.txLog ++ (initRequests s.cfg).take (k + 1)
        phase := .exec w }
      ∧ (k < (initBytes s.cfg).length → c = .uninitialized ∧ fb = s.fb)
      ∧ ((initBytes s.cfg).length ≤ k → c = .initOn ∧ ∀ a, Memory.read fb a = 0) := by
  have hlen : (cmds (initBytes s.cfg)).length = (initBytes s.cfg).length := List.length_map ..
  rw [initRequests_eq] at hk ⊢
  by_cases h : k < (initBytes s.cfg).length
  · obtain ⟨w, hw⟩ := runProg_requests_wait (some .uninitialized) (cmds (initBytes s.cfg))
      (fun _ => hasAnswer_cmds) (.setCtrl .initOn :: .clearFb :: ((flushRequests s.cfg []).map .tx ++ []))
      { s with ctrlState := .uninitialized } k (hlen ▸ h) hs
    refine ⟨w, .uninitialized, s.fb, ?_, fun _ => ⟨rfl, rfl⟩, fun h' => absurd h (Nat.not_lt.mpr h')⟩
    rw [exec_init, initProg_eq, hw, List.take_append_of_le_length (by omega)]
  · obtain ⟨j, rfl⟩ := Nat.exists_eq_add_of_le (Nat.le_of_not_lt h)
    rw [List.length_append, hlen] at hk
    obtain ⟨w, hw⟩ := runProg_requests_wait (some .uninitialized) (flushRequests s.cfg [])
      (fun _ => hasAnswer_flushRequests) []
      (fillFb { s with ctrlState := .initOn, txAnswers := okAnswers j, txLog := s.txLog ++ cmds (initBytes s.cfg) } 0)
      j (Nat.lt_of_add_lt_add_left hk) rfl
    have hi := runProg_initBytes_ok { s with ctrlState := .uninitialized } (okAnswers j) (hs.trans (okAnswers_add _ _))
    refine ⟨w, .initOn, Memory.tabulate s.cfg.fbSize fun _ => 0, ?_, fun h' => absurd h' h,
      fun _ => ⟨rfl, fun a => by simp [read_tabulate]⟩⟩
    have htake : (cmds (initBytes s.cfg)).take ((initBytes s.cfg).length + j + 1) = cmds (initBytes s.cfg) :=
      List.take_of_length_le (by omega)
    rw [exec_init, hi.trans hw, List.take_append, htake, hlen, Nat.add_assoc, Nat.add_sub_cancel_left,
      ← List.append_assoc]
    rfl

/-- An operation of R275 past its check waits at request k + 1 and has changed nothing else. -/
theorem exec_needsInit_wait {i : Instr} (hi : needsInit i = true) (s : State) (rs : List TxRequest) (k : Nat)
    (hrs : requestsOf s i = some rs) (hc : s.ctrlState ≠ .uninitialized) (hk : k < rs.length)
    (hs : s.txAnswers = okAnswers k) :
    ∃ w, exec i s
      = .next { s with txAnswers := [], txLog := s.txLog ++ rs.take (k + 1), phase := .exec w } := by
  obtain ⟨rs', hrs', ha, he⟩ := exec_needsInit hi s
  cases hrs.symm.trans hrs'
  obtain ⟨w, hw⟩ := runProg_requests_wait none rs ha (ctrlTail i) s k hk hs
  exact ⟨w, by rw [he, whenInitialized, if_neg hc, hw]⟩

theorem needsInit_of_requests {s : State} {i : Instr} {rs : List TxRequest} (h : requestsOf s i = some rs)
    (hi : i ≠ .init) : needsInit i = true := by
  cases i with
  | init => exact absurd rfl hi
  | flush | setContrast | setDisplayOn | invertDisplay | scrollR | scrollL | scrollDR | scrollDL | stopScroll => rfl
  | _ => cases h

/-- Settles O53: INIT, and every operation of R275. -/
theorem controllerOpWaitsForEachAnswer : Obligations.ControllerOpWaitsForEachAnswer := by
  intro i s rs k hrs hc hk hs
  by_cases hi : i = .init
  · subst hi
    cases hrs
    obtain ⟨w, c, fb, he, hbytes, hflush⟩ := exec_init_wait s k hk hs
    refine ⟨_, he, ⟨⟨w, rfl⟩, rfl, rfl, rfl⟩, isBusy_of_phase (by simp), rfl, rfl, rfl, rfl, fun h => absurd rfl h,
      fun _ h => ?_, fun _ h => hflush h, .refl s, .refl s⟩
    obtain ⟨rfl, rfl⟩ := hbytes h
    exact ⟨rfl, fun _ => rfl⟩
  · obtain ⟨w, he⟩ := exec_needsInit_wait (needsInit_of_requests hrs hi) s rs k hrs (hc.resolve_left hi) hk hs
    exact ⟨_, he, ⟨⟨w, rfl⟩, rfl, rfl, rfl⟩, isBusy_of_phase (by simp), rfl, rfl, rfl, rfl,
      fun _ => ⟨rfl, fun _ => rfl⟩, fun h => absurd h hi, fun h => absurd h hi, .refl s, .refl s⟩

/-! ### RESET -/

theorem runProg_reset_line (f : Option CtrlState) (active : Bool) (rest : List Micro) (s : State) :
    runProg f (.tx (.reset active) :: rest) s = runProg f rest (issue s (.reset active)) := rfl

/-- The engine's next step ends the delay and runs the rest (R52). -/
theorem step_delay {s : State} (hs : s.schedule = []) (f : Option CtrlState) (ms : Half) (rest : List Micro) :
    step { s with phase := .exec { awaiting := .delay ms, rest := rest, failTo := f } }
      = .next (runProg f rest s) := by
  have hstep := step_engine (s := { s with phase := .exec { awaiting := .delay ms, rest := rest, failTo := f } }) hs
  rw [hstep, engineTurn_exec rfl, resume_runs rfl, runProg_phase]

/-- The requests of RESET (R252). -/
def resetRequests (cfg : Config) : List TxRequest :=
  [.reset true, .delay cfg.resetHoldMs, .reset false, .delay cfg.resetSettleMs]

/-- A RESET that no step ends inside. -/
theorem runProg_resetProg (s : State) (h : ∀ b ∈ s.pauses.take 2, b = false) :
    runProg none (resetProg s.cfg) s
      = complete { s with
          ctrlState := .uninitialized, resetLine := false, pauses := s.pauses.drop 2
          txLog := s.txLog ++ resetRequests s.cfg } .ok 0 := by
  have h1 : s.pauses.head? ≠ some true := by
    match hp : s.pauses with
    | [] => simp
    | b :: ps => simp_all
  have h2 : s.pauses.tail.head? ≠ some true := by
    match hp : s.pauses with
    | [] | [_] => simp
    | b :: c :: ps => simp_all
  rw [resetProg, runProg_reset_line, runProg_delay_done, runProg_reset_line, runProg_delay_done]
  · simp [runProg, issue, lineAfter, resetRequests, ← List.drop_one]
  · exact h2
  · exact h1

/-- A RESET the step ends in the hold of. -/
theorem runProg_resetProg_hold (s : State) (ps : List Bool) (h : s.pauses = true :: ps) :
    ∃ w, runProg none (resetProg s.cfg) s = { s with
      resetLine := true, pauses := ps, phase := .exec w
      txLog := s.txLog ++ [.reset true] ++ [.delay s.cfg.resetHoldMs] } := by
  rw [resetProg, runProg_reset_line, runProg_delay_pause _ _ _ (issue s _) ps h]
  exact ⟨_, rfl⟩

/-- A RESET the step ends in the settle delay of. -/
theorem runProg_resetProg_settle (s : State) (ps : List Bool) (h : s.pauses = false :: true :: ps) :
    ∃ w, runProg none (resetProg s.cfg) s = { s with
      resetLine := false, pauses := ps, phase := .exec w
      txLog := s.txLog ++ [.reset true] ++ [.delay s.cfg.resetHoldMs] ++ [.reset false]
        ++ [.delay s.cfg.resetSettleMs] } := by
  rw [resetProg, runProg_reset_line, runProg_delay_done, runProg_reset_line, runProg_delay_pause _ _ _ _ ps]
  · exact ⟨_, rfl⟩
  · exact congrArg List.tail h
  · simp [h]

/-- A TxDelay (R52). -/
def isDelay : Micro → Bool
  | .tx (.delay _) => true
  | _ => false

/-- A descriptor without answered requests ends as it would without pauses, after one more engine step for each delay it
paused in at most, whatever the Transport does (log 7). -/
theorem run_past_pauses (f : Option CtrlState) (p : List Micro) (s : State)
    (hp : ∀ r, Micro.tx r ∈ p → hasAnswer r = false) (hs : s.schedule = []) :
    ∃ n ps, n ≤ p.countP isDelay ∧ Host.Core.run Sys2Proof.core n (runProg f p s)
      = .next { runProg f p { s with pauses := [] } with pauses := ps } := by
  induction p generalizing s with
  | nil => exact ⟨0, s.pauses, Nat.le_refl _, rfl⟩
  | cons m p ih =>
    have ih' := fun u hu => ih u (fun r hr => hp r (List.mem_cons_of_mem m hr)) hu
    cases m with
    | setCtrl c => exact ih' { s with ctrlState := c } hs
    | clearFb => exact ih' (fillFb s 0) hs
    | tx r =>
      have hr := hp r List.mem_cons_self
      cases r with
      | cmd b | data bs => cases hr
      | reset active => exact ih' (issue s (.reset active)) hs
      | delay ms =>
        obtain ⟨n, ps, hn, hrun⟩ := ih' { issue s (.delay ms) with pauses := s.pauses.tail } hs
        rw [List.countP_cons_of_pos rfl]
        by_cases hh : s.pauses.head? = some true
        · obtain ⟨ps', hps⟩ := List.head?_eq_some_iff.mp hh
          have hwait := runProg_delay_pause f ms p s ps' hps
          refine ⟨n + 1, ps, Nat.succ_le_succ hn, ?_⟩
          rw [run_succ (t := runProg f p { issue s (.delay ms) with pauses := s.pauses.tail }), hrun]
          · rfl
          · rw [hwait, hps]
            exact step_delay (s := { issue s (.delay ms) with pauses := ps' }) hs f ms p
        · refine ⟨n, ps, Nat.le_succ_of_le hn, ?_⟩
          rw [runProg_delay_done f ms p s hh, hrun]
          rfl

theorem hasAnswer_resetProg {cfg : Config} {r : TxRequest} (h : Micro.tx r ∈ resetProg cfg) :
    hasAnswer r = false := by
  simp only [resetProg, List.mem_cons, Micro.tx.injEq, reduceCtorEq, List.not_mem_nil, or_false] at h
  obtain rfl | rfl | rfl | rfl := h <;> rfl

/-- STATUS.RSTLINE (R48, R53). -/
theorem statusReg_rstline (s : State) : (statusReg s).getLsbD 4 = s.resetLine := by
  simp only [statusReg, BitVec.getLsbD_append, BitVec.getLsbD_ofBool]
  simp

/-- Settles O54: RESET not paused, paused in its hold, paused in its settle delay; and its end in each case. -/
theorem resetPulsesTheLine : Obligations.ResetPulsesTheLine := by
  intro s hold settle
  have hsettle : settle = s.txLog ++ resetRequests s.cfg := List.append_assoc ..
  refine ⟨fun h => ?_, fun ps hps => ?_, fun ps hps => ?_, fun hs => ?_⟩
  · rw [exec_reset, runProg_resetProg s h]
    exact ⟨_, rfl, completed_complete rfl rfl .ok 0, rfl, rfl, hsettle.symm, rfl, rfl, fun _ => rfl, .refl s, .refl s⟩
  · obtain ⟨w, hw⟩ := runProg_resetProg_hold s ps hps
    rw [exec_reset, hw]
    exact ⟨_, rfl, ⟨⟨w, rfl⟩, rfl, rfl, rfl⟩, isBusy_of_phase (by simp), rfl, statusReg_rstline _, rfl,
      by simp [hold], rfl, rfl, fun _ => rfl, .refl s, .refl s⟩
  · obtain ⟨w, hw⟩ := runProg_resetProg_settle s ps hps
    rw [exec_reset, hw]
    exact ⟨_, rfl, ⟨⟨w, rfl⟩, rfl, rfl, rfl⟩, isBusy_of_phase (by simp), rfl, statusReg_rstline _, rfl,
      by simp [settle, hold], rfl, rfl, fun _ => rfl, .refl s, .refl s⟩
  · obtain ⟨n, ps, hn, hrun⟩ := run_past_pauses none (resetProg s.cfg) s (fun _ => hasAnswer_resetProg) hs
    have hend := runProg_resetProg { s with pauses := [] } (fun _ hb => absurd hb List.not_mem_nil)
    rw [hend] at hrun
    exact ⟨_, n, _, exec_reset s, hn, hrun, completed_complete rfl rfl .ok 0, rfl, rfl, hsettle.symm, rfl,
      fun _ => rfl, .refl s, .refl s⟩

end Sys2Proof.Machine
end

section
namespace Sys2Proof.Machine

/-! ## The host port -/

/-! ### Registers -/

/-- Settles O12, field by field. -/
theorem resetLeavesTheTableOfValues : Obligations.ResetLeavesTheTableOfValues :=
  ⟨read_nil, rfl, rfl, rfl, rfl, rfl, rfl, rfl, rfl, rfl, rfl, rfl⟩

/-- STATUS[15:0] (R48). -/
def statusLow (s : State) : Half :=
  0#11 ++ BitVec.ofBool s.resetLine ++ BitVec.ofBool s.err ++ BitVec.ofBool (isDisplayOn s)
    ++ BitVec.ofBool (isInitialized s) ++ BitVec.ofBool (isBusy s)

theorem statusReg_eq (s : State) : statusReg s = queueFree s ++ statusLow s := by
  refine BitVec.eq_of_getLsbD_eq fun i hi => ?_
  simp only [statusReg, statusLow, BitVec.getLsbD_append]
  grind

/-- The bits of STATUS[15:0] (R48). -/
def statusBit (s : State) : Nat → Bool
  | 0 => isBusy s
  | 1 => isInitialized s
  | 2 => isDisplayOn s
  | 3 => s.err
  | 4 => s.resetLine
  | _ => false

theorem statusReg_getLsbD (s : State) {k : Nat} (hk : k < 16) : (statusReg s).getLsbD k = statusBit s k := by
  interval_cases k <;> simp only [statusReg, BitVec.getLsbD_append, BitVec.getLsbD_ofBool] <;> simp [statusBit]

theorem hiHalf_statusReg (s : State) : hiHalf (statusReg s) = queueFree s := by
  rw [statusReg_eq]
  exact hiHalf_halves (statusLow s) (queueFree s)

theorem statusReg_blockReset (s : State) :
    statusReg (blockReset s) = BitVec.ofNat 16 (min s.cfg.cmdqDepth 0xFFFF) ++ 0#16 := by
  have hlow : statusLow (blockReset s) = statusLow State.reset := rfl
  rw [statusReg_eq, hlow, show statusLow State.reset = 0#16 by decide]
  rfl

theorem toNat_ofNat_of_lt {n k : Nat} (h : k < 2 ^ n) : (BitVec.ofNat n k).toNat = k := by
  rw [BitVec.toNat_ofNat, Nat.mod_eq_of_lt h]

theorem isBusy_iff (s : State) : isBusy s = true ↔ s.phase ≠ .idle ∨ s.queue ≠ [] := by simp [isBusy]

/-- Settles O55, by the bits of STATUS[15:0] and its upper half. -/
theorem statusRegisterFields : Obligations.StatusRegisterFields := by
  refine ⟨fun s => ?_, statusReg_blockReset, by decide⟩
  rw [statusReg_getLsbD s (k := 0) (by decide), statusReg_getLsbD s (k := 1) (by decide),
    statusReg_getLsbD s (k := 2) (by decide), statusReg_getLsbD s (k := 3) (by decide),
    statusReg_getLsbD s (k := 4) (by decide), hiHalf_statusReg]
  refine ⟨isBusy_iff s, decide_eq_true_iff, decide_eq_true_iff, rfl, rfl, fun k h5 hk => ?_, ?_⟩
  · rw [statusReg_getLsbD s (by omega)]
    obtain ⟨j, rfl⟩ := Nat.exists_eq_add_of_le' h5
    rfl
  · exact toNat_ofNat_of_lt (by omega)

/-! ### Accesses -/

theorem apertureOffset_base {cfg : Config} {off : Nat} (h : off < 0x20000) :
    apertureOffset cfg (cfg.base + off) = some off := by
  rw [apertureOffset, if_pos (by omega), Nat.add_sub_cancel_left]

/-- R73, for an address given by its offset. -/
theorem listedAccess_base {cfg : Config} {width : AccessWidth} {off : Nat} :
    listedAccess cfg width (cfg.base + off) ↔ off < 0x20000 ∧ legalAccess width off = true := by
  have hlegal : legalAccess width off = true
      ↔ (off < 0x10000 ∧ width = .w32 ∧ off % 4 = 0) ∨ (0x10000 ≤ off ∧ off % widthBytes width = 0) := by
    unfold legalAccess
    split
    · next h => simp [h, Nat.not_le.mpr h]
    · next h => simp [h, Nat.not_lt.mp h]
  rw [hlegal]
  constructor
  · rintro ⟨off', hlt, he, h⟩
    cases Nat.add_left_cancel he
    exact ⟨hlt, h⟩
  · exact fun h => ⟨off, h.1, rfl, h.2⟩

theorem hostAccess_read {s : State} {width : AccessWidth} {off : Nat}
    (h : listedAccess s.cfg width (s.cfg.base + off)) :
    hostAccess (.read width (s.cfg.base + off)) s = .next (hostRead s width (s.cfg.base + off) off) := by
  obtain ⟨hoff, hl⟩ := listedAccess_base.mp h
  simp [hostAccess, apertureOffset_base hoff, hl]

theorem hostAccess_write {s : State} {width : AccessWidth} {off : Nat} (v : Word)
    (h : listedAccess s.cfg width (s.cfg.base + off)) :
    hostAccess (.write width (s.cfg.base + off) v) s = .next (hostWrite s off v) := by
  obtain ⟨hoff, hl⟩ := listedAccess_base.mp h
  simp [hostAccess, apertureOffset_base hoff, hl]

theorem hostTurn_access {s : State} (hh : s.held = none) {a : HostAccess} {ops : List HostAccess}
    (ho : s.hostOps = a :: ops) : hostTurn s = hostAccess a { s with hostOps := ops } := by simp [hostTurn, hh, ho]

theorem hostTurn_held {s : State} {v : Word} (hh : s.held = some v) :
    hostTurn s = .next (pushCmd { s with held := none } v) := by simp [hostTurn, hh]

theorem step_host {s : State} {ts : List Turn} (hs : s.schedule = .host :: ts) :
    step s = hostTurn { s with schedule := ts } := by simp [step, hs, takeTurn]

/-! ### Reads -/

theorem readValue_exact {s : State} {width : AccessWidth} {off : Nat} (h : (isBusy s && freeWhileBusy off) = false) :
    readValue s width off = if off < 0x10000 then registerRead s off else windowRead s width (off - 0x10000) := by
  simp [readValue, h]

theorem registerRead_other (s : State) {off : Nat} (h : off = 0 ∨ 0x18 ≤ off) : registerRead s off = 0 := by
  unfold registerRead
  repeat rw [if_neg (by omega)]

/-- GEOMETRY (R49). -/
theorem geometryReg_fields (s : State) :
    (loHalf (geometryReg s)).toNat = s.cfg.w ∧ (hiHalf (geometryReg s)).toNat = s.cfg.h := by
  obtain ⟨-, hw, -, hh, -⟩ := config_legal s.cfg
  have he : geometryReg s = halves (BitVec.ofNat 16 s.cfg.w) (BitVec.ofNat 16 s.cfg.h) := rfl
  rw [he, loHalf_halves, hiHalf_halves]
  exact ⟨toNat_ofNat_of_lt (by omega), toNat_ofNat_of_lt (by omega)⟩

/-- CONFIG (R49). -/
theorem configReg_fields (s : State) :
    byteLane (configReg s) 0 = s.cfg.xOffset ∧ (byteLane (configReg s) 1).toNat = s.cfg.arcStep
      ∧ (hiHalf (configReg s)).toNat = min s.cfg.cmdqDepth 0xFFFF := by
  obtain ⟨-, -, -, -, -, -, -, hstep, -⟩ := config_legal s.cfg
  have h0 : byteLane (configReg s) 0 = s.cfg.xOffset := by
    ext i hi
    simp only [byteLane, configReg, BitVec.getElem_extractLsb', BitVec.getLsbD_append]
    rw [if_pos (by omega), BitVec.getLsbD_eq_getElem (by omega)]
    simp
  have h1 : byteLane (configReg s) 1 = BitVec.ofNat 8 s.cfg.arcStep := by
    ext i hi
    simp only [byteLane, configReg, BitVec.getElem_extractLsb', BitVec.getLsbD_append]
    rw [if_neg (by omega), if_pos (by omega), BitVec.getLsbD_eq_getElem (by omega)]
    simp
  have h2 : hiHalf (configReg s) = BitVec.ofNat 16 (min s.cfg.cmdqDepth 0xFFFF) := by
    ext i hi
    simp only [hiHalf, configReg, BitVec.getElem_extractLsb', BitVec.getLsbD_append]
    rw [if_neg (by omega), if_neg (by omega), BitVec.getLsbD_eq_getElem (by omega)]
    congr 1
    omega
  rw [h0, h1, h2]
  exact ⟨rfl, toNat_ofNat_of_lt (by omega), toNat_ofNat_of_lt (by omega)⟩

/-- An exact FBWIN read, lane by lane (R72, R79). -/
theorem byteLane_windowRead (s : State) (width : AccessWidth) (i : Nat) {k : Nat} (hk : k < 4) :
    byteLane (windowRead s width i) k
      = if k < widthBytes width ∧ i + k < s.cfg.fbSize then Memory.read s.fb (i + k) else 0 := by
  cases width <;> interval_cases k <;> simp [windowRead, byteLane_lanes, widthBytes, windowByte]

/-- Settles O56: the reply is `readValue`, which is exact here, and each register is read by its own lemma. -/
theorem hostReadsAreExact : Obligations.HostReadsAreExact := by
  intro s width off ops ts hs hh ho _ hl hexact
  have hfree : (isBusy s && freeWhileBusy off) = false := by
    obtain hb | ⟨h1, h2⟩ := hexact
    · simp [hb]
    · simp [freeWhileBusy, h1, h2]
  have hstep : step s = .next (hostRead { s with schedule := ts, hostOps := ops } width (s.cfg.base + off) off) := by
    rw [step_host hs, hostTurn_access (s := { s with schedule := ts }) hh ho]
    exact hostAccess_read (s := { s with schedule := ts, hostOps := ops }) hl
  have hdraws : (hostRead { s with schedule := ts, hostOps := ops } width (s.cfg.base + off) off).draws = s.draws :=
    if_neg (ne_true_of_eq_false hfree)
  have hval : readValue { s with schedule := ts, hostOps := ops } width off
      = if off < 0x10000 then registerRead s off else windowRead s width (off - 0x10000) := readValue_exact hfree
  have hreg : off < 0x10000 → readValue { s with schedule := ts, hostOps := ops } width off = registerRead s off :=
    fun h => hval.trans (if_pos h)
  refine ⟨_, _, hstep, rfl, .refl s, rfl, rfl, hh, hdraws, rfl, rfl, ?_, ?_, ?_, ?_, ?_, ?_, ?_, ?_⟩
  · rintro rfl; exact hreg (by decide)
  · rintro rfl; exact hreg (by decide)
  · rintro rfl; exact hreg (by decide)
  · rintro rfl; exact hreg (by decide)
  · rintro rfl
    rw [hreg (by decide)]
    exact geometryReg_fields s
  · rintro rfl
    rw [hreg (by decide)]
    exact configReg_fields s
  · intro h h'
    rw [hreg h', registerRead_other s (.inr h)]
  · intro h k hk
    rw [hval, if_neg (Nat.not_lt.mpr h), byteLane_windowRead s width _ hk]

/-! ### Writes -/

/-- Settles O59: the host's next access is a write, or a held write is retried. -/
theorem hostWritesAppendClearOrAreIgnored : Obligations.HostWritesAppendClearOrAreIgnored := by
  refine ⟨fun s width off v ops ts hs hh ho hl => ?_, fun s v ts hs hh => ?_⟩
  · let u : State := { s with schedule := ts, hostOps := ops }
    have hstep : step s = .next (hostWrite u off v) := by
      rw [step_host hs, hostTurn_access (s := { s with schedule := ts }) hh ho]
      exact hostAccess_write (s := u) v hl
    refine ⟨_, hstep, (hostWrite_block u off v).1, ?_⟩
    by_cases h0 : off = 0x00
    · subst h0
      obtain ⟨h, e⟩ | ⟨h, e⟩ := pushCmd_cases u v
      · rw [show hostWrite u 0x00 v = pushCmd u v from rfl, e]
        have h' := Nat.not_le.mpr h
        simp_all [u]
      · rw [show hostWrite u 0x00 v = pushCmd u v from rfl, e]
        have h' := Nat.not_lt.mpr h
        simp_all [u]
    · by_cases h4 : off = 0x04
      · subst h4
        rw [show hostWrite u 0x04 v = { u with err := clearErr v u.err } from rfl]
        simp [u, clearErr, hh]
      · rw [show hostWrite u off v = u by simp [hostWrite, h0, h4]]
        simp [u, h0, h4, hh]
  · rw [step_host hs, hostTurn_held (s := { s with schedule := ts }) hh]
    refine ⟨_, rfl, (pushCmd_block { s with schedule := ts, held := none } v).1, ?_⟩
    obtain ⟨h, e⟩ | ⟨h, e⟩ := pushCmd_cases { s with schedule := ts, held := none } v <;> rw [e]
    · simp_all
    · have h' := Nat.not_lt.mpr h
      simp_all

/-! ### A shared cycle -/

theorem illegal_decodes_to_error {h : Word} {p : List Word} (hi : illegalDescriptor h p) :
    ∃ e, decodeDescriptor h p = .error e := by
  obtain hn | ⟨op, ho, hc⟩ := hi
  · exact ⟨.unassignedOpcode, by simp [decodeDescriptor, hn]⟩
  · simp only [decodeDescriptor, ho]
    split_ifs
    iterate 4 exact ⟨_, rfl⟩
    simp_all

theorem takeDescriptor_oneWord (h : Word) (ws : List Word) (s : State) (hn : nField h = 0) :
    takeDescriptor h ws s = match decodeDescriptor h [] with
      | .ok i => exec i { s with queue := ws }
      | .error _ => .next (complete { s with queue := ws } .illegal 0) := by
  have h2 : 2 ≤ s.cfg.cmdqDepth := (config_legal s.cfg).2.2.2.2.2.2.2.2
  simp only [takeDescriptor, decode, hn, Nat.not_lt_zero, if_false, List.take_zero, List.drop_zero]
  rw [if_neg (by omega)]
  cases decodeDescriptor h [] <;> rfl

/-- A host turn that clears ERR (R48). -/
theorem hostTurn_clears {s : State} {v : Word} {ops : List HostAccess} (hh : s.held = none)
    (ho : s.hostOps = .write .w32 (s.cfg.base + 0x04) v :: ops) (hv : v.getLsbD 3 = true) :
    hostTurn s = .next { s with hostOps := ops, err := false } := by
  have hl : listedAccess s.cfg .w32 (s.cfg.base + 0x04) := listedAccess_base.mpr ⟨by decide, rfl⟩
  have hw := hostAccess_write (s := { s with hostOps := ops }) v hl
  have hc : clearErr v s.err = false := by simp [clearErr, hv]
  rw [hostTurn_access hh ho, hw, hostWrite, if_neg (by decide), if_pos rfl]
  simp [hc]

theorem err_after_clear {s t : State} (he : s.err = false) (h : Posted s t ∨ NothingPosted s t) :
    t.err = (decide (t.doneCount ≠ s.doneCount) && decide (resultCode t.result ≠ statusCode .ok)) := by
  obtain ⟨st, v, ⟨-, hd, hc, -, -, herr⟩, -⟩ | ⟨hd, -, herr⟩ := h
  · rw [herr, he, hd, hc]
    cases st <;> simp [statusCode]
  · rw [herr, he, hd]
    simp

/-- Settles O60: the host's access leaves ERR at 0, and then the engine posts once or not at all. -/
theorem completionBeatsSameCycleClear : Obligations.CompletionBeatsSameCycleClear := by
  intro s v ops ts hs hh ho hv
  let u : State := { s with schedule := ts, hostOps := ops, err := false }
  have hstep : step s = engineTurn u := by
    have hclear := hostTurn_clears (s := { s with schedule := ts }) hh ho hv
    simp only [step, hs, takeTurn, hclear]
    rfl
  rw [hstep]
  refine ⟨?_, fun h ws hp hq hn => ?_⟩
  · obtain ⟨t, ht, hcase⟩ := engineTurn_cases u
    exact ⟨t, ht, err_after_clear (s := u) rfl (engineStep_posts hcase)⟩
  · have hturn : engineTurn u = takeDescriptor h ws u := by simp [engineTurn, u, hp, hq]
    rw [hturn, takeDescriptor_oneWord h ws u hn]
    refine ⟨fun hi => ?_, ?_⟩
    · obtain ⟨e, he⟩ := illegal_decodes_to_error hi
      rw [he]
      exact ⟨_, rfl, rfl, rfl⟩
    · rintro rfl
      exact ⟨_, rfl, rfl, rfl⟩

end Sys2Proof.Machine
end

section
namespace Sys2Proof.Machine

/-! ## Unlisted accesses and busy reads -/

/-! ### Which accesses stop the model -/

/-- R73, for a read or a write (log 13). -/
def ListedOp (cfg : Config) : HostAccess → Prop
  | .read width addr => listedAccess cfg width addr
  | .write width addr _ => listedAccess cfg width addr

theorem apertureOffset_some {cfg : Config} {addr off : Nat} (h : apertureOffset cfg addr = some off) :
    addr = cfg.base + off ∧ off < 0x20000 := by
  obtain ⟨⟨hlo, hhi⟩, he⟩ := Option.ite_none_right_eq_some.mp h
  cases he
  omega

theorem listedAccess_offset {cfg : Config} {width : AccessWidth} {addr : Nat} (h : listedAccess cfg width addr) :
    ∃ off, addr = cfg.base + off :=
  let ⟨off, _, he, _⟩ := h
  ⟨off, he⟩

theorem not_legal_of_unlisted {cfg : Config} {width : AccessWidth} {addr off : Nat}
    (h : ¬ listedAccess cfg width addr) (ho : apertureOffset cfg addr = some off) :
    ¬ legalAccess width off = true := by
  obtain ⟨rfl, hoff⟩ := apertureOffset_some ho
  exact fun hl => h (listedAccess_base.mpr ⟨hoff, hl⟩)

theorem hostAccess_unlisted {s : State} {a : HostAccess} (h : ¬ ListedOp s.cfg a) :
    hostAccess a s = .fault .hostAccessError := by
  cases a with
  | read width addr =>
    simp only [hostAccess]
    split
    · next off ho => exact if_neg (not_legal_of_unlisted h ho)
    · rfl
  | write width addr v =>
    simp only [hostAccess]
    split
    · next off ho => exact if_neg (not_legal_of_unlisted h ho)
    · rfl

theorem hostAccess_listed {s : State} {a : HostAccess} (h : ListedOp s.cfg a) :
    ∃ t, hostAccess a s = .next t := by
  cases a with
  | read width addr =>
    obtain ⟨off, rfl⟩ := listedAccess_offset h
    exact ⟨_, hostAccess_read h⟩
  | write width addr v =>
    obtain ⟨off, rfl⟩ := listedAccess_offset h
    exact ⟨_, hostAccess_write v h⟩

/-- R75. -/
theorem hostAccess_fault_iff (s : State) (a : HostAccess) :
    hostAccess a s = .fault .hostAccessError ↔ ¬ ListedOp s.cfg a := by
  refine ⟨fun hf hl => ?_, hostAccess_unlisted⟩
  obtain ⟨t, ht⟩ := hostAccess_listed hl
  rw [ht] at hf
  cases hf

/-- The host's turn with an access to make and no held write is that access. -/
theorem step_hostAccess {s : State} {a : HostAccess} {ops : List HostAccess} {ts : List Turn}
    (hs : s.schedule = .host :: ts) (hh : s.held = none) (ho : s.hostOps = a :: ops) :
    step s = hostAccess a { s with schedule := ts, hostOps := ops } := by
  rw [step_host hs, hostTurn_access (s := { s with schedule := ts }) hh ho]

/-- Settles O58: the step is the access, which faults exactly where it is not listed. -/
theorem unlistedAccessesFault : Obligations.UnlistedAccessesFault := by
  intro s a ops ts hs hh ho
  have hiff : step s = .fault .hostAccessError ↔ ¬ ListedOp s.cfg a := by
    rw [step_hostAccess hs hh ho]
    exact hostAccess_fault_iff _ a
  cases a with
  | read width addr => exact hiff
  | write width addr v => exact hiff

/-! ### Reads while BUSY = 1 -/

theorem readValue_free {s : State} {width : AccessWidth} {off : Nat} (h : (isBusy s && freeWhileBusy off) = true) :
    readValue s width off = freeDraw s width := if_pos h

theorem freeWhileBusy_iff (off : Nat) : freeWhileBusy off = true ↔ off = 0x0C ∨ 0x10000 ≤ off := by
  simp [freeWhileBusy]

/-- A free draw has no bytes past the width of the read (R310). -/
theorem byteLane_freeDraw_above (s : State) (width : AccessWidth) {k : Nat} (hw : widthBytes width ≤ k) (hk : k < 4) :
    byteLane (freeDraw s width) k = 0 := by
  cases width with
  | w8 =>
    change 1 ≤ k at hw
    interval_cases k <;> simp [freeDraw, byteLane_lanes]
  | w16 =>
    change 2 ≤ k at hw
    interval_cases k <;> simp [freeDraw, byteLane_lanes]
  | w32 => exact absurd hk (Nat.not_lt.mpr hw)

/-- Settles O57: the step is `hostRead`, whose reply is a free draw here. -/
theorem busyReadsAreAnswered : Obligations.BusyReadsAreAnswered := by
  intro s width off ops ts hs hh ho hl hb hoff
  have hfree : (isBusy s && freeWhileBusy off) = true := by rw [hb, (freeWhileBusy_iff off).mpr hoff]; rfl
  let u : State := { s with schedule := ts, hostOps := ops }
  have hstep : step s = .next (hostRead u width (s.cfg.base + off) off) :=
    (step_hostAccess hs hh ho).trans (hostAccess_read (s := u) hl)
  refine ⟨_, readValue u width off, hstep, rfl, fun k hw hk => ?_, .refl s, rfl, rfl, hh, rfl, rfl⟩
  rw [readValue_free (s := u) hfree]
  exact byteLane_freeDraw_above u width hw hk

end Sys2Proof.Machine
end

section
namespace Sys2Proof.Machine

/-! ## The encoding of descriptors -/

/-! ### Halves and lanes of a word -/

theorem lanes_eq_halves (a b c d : Byte) : lanes a b c d = halves (b ++ a) (d ++ c) := by
  rw [lanes, halves, BitVec.append_assoc]
  rfl

theorem loHalf_eq_lanes (v : Word) : loHalf v = byteLane v 1 ++ byteLane v 0 :=
  (BitVec.extractLsb'_append_extractLsb'_eq_extractLsb' (x := v) (start₁ := 0) (len₁ := 8) rfl).symm

theorem hiHalf_eq_lanes (v : Word) : hiHalf v = byteLane v 3 ++ byteLane v 2 :=
  (BitVec.extractLsb'_append_extractLsb'_eq_extractLsb' (x := v) (start₁ := 16) (len₁ := 8) rfl).symm

@[simp] theorem hiHalf_lanes (a b c d : Byte) : hiHalf (lanes a b c d) = d ++ c := by
  rw [lanes_eq_halves, hiHalf_halves]

theorem halves_of_hiHalf_zero {v : Word} (h : hiHalf v = 0) : halves (loHalf v) 0#16 = v := by
  rw [← halves_loHalf_hiHalf v, h, loHalf_halves]
  rfl

theorem lanes_of_hiHalf_zero {v : Word} (h : hiHalf v = 0) : lanes (byteLane v 0) (byteLane v 1) 0#8 0#8 = v := by
  rw [lanes_eq_halves, ← loHalf_eq_lanes]
  exact halves_of_hiHalf_zero h

/-- Bits [31:8], SETCONTRAST's reserved field (R106). -/
theorem above_lane0_eq (v : Word) : v.extractLsb' 8 24 = hiHalf v ++ byteLane v 1 :=
  (BitVec.extractLsb'_append_extractLsb'_eq_extractLsb' (x := v) (start₁ := 8) (len₁ := 8) rfl).symm

theorem lanes_of_above_lane0_zero {v : Word} (h : v.extractLsb' 8 24 = 0) : lanes (byteLane v 0) 0#8 0#8 0#8 = v := by
  rw [above_lane0_eq] at h
  have hhi : hiHalf v = 0 := by
    rw [← BitVec.extractLsb'_append_eq_left (a := hiHalf v) (b := byteLane v 1), h]
    rfl
  have hlane : byteLane v 1 = 0#8 := by
    rw [← BitVec.extractLsb'_append_eq_right (a := hiHalf v) (b := byteLane v 1), h]
    rfl
  simpa only [hlane] using lanes_of_hiHalf_zero hhi

theorem byteLane_two (v : Word) : byteLane v 2 = (hiHalf v).extractLsb' 0 8 := by
  rw [hiHalf_eq_lanes, BitVec.extractLsb'_append_eq_right]

theorem byteLane_three (v : Word) : byteLane v 3 = (hiHalf v).extractLsb' 8 8 := by
  rw [hiHalf_eq_lanes, BitVec.extractLsb'_append_eq_left]

/-- P0 of WRITESTRING is a length, a font and a reserved byte (R106). -/
theorem halves_lengthFont (n : Half) (font : Byte) : halves n (0#8 ++ font) = 0#8 ++ font ++ n := rfl

/-- The fields of P0 of WRITESTRING (R106). -/
theorem lengthFont_fields (n : Half) (font : Byte) :
    loHalf (0#8 ++ font ++ n) = n ∧ byteLane (0#8 ++ font ++ n) 2 = font ∧ byteLane (0#8 ++ font ++ n) 3 = 0 := by
  rw [← halves_lengthFont, loHalf_halves, byteLane_two, byteLane_three, hiHalf_halves]
  exact ⟨rfl, BitVec.extractLsb'_append_eq_right, BitVec.extractLsb'_append_eq_left⟩

theorem lengthFont_of_lane3_zero {v : Word} (h : byteLane v 3 = 0) : 0#8 ++ byteLane v 2 ++ loHalf v = v := by
  have hhi : hiHalf v = 0#8 ++ byteLane v 2 := by rw [hiHalf_eq_lanes, h]; rfl
  rw [← halves_lengthFont, ← hhi, halves_loHalf_hiHalf]

/-! ### Header words -/

theorem header_appended (h : Word) : hiHalf h ++ rsvField h ++ BitVec.ofBool (cField h) ++ opField h = h := by
  have hc : BitVec.ofBool (cField h) = h.extractLsb' 8 1 := by
    ext i hi
    simp [cField, show i = 0 by omega]
  rw [hiHalf, rsvField, hc, opField, BitVec.extractLsb'_append_extractLsb'_eq_extractLsb' (by rfl),
    BitVec.extractLsb'_append_extractLsb'_eq_extractLsb' (by rfl),
    BitVec.extractLsb'_append_extractLsb'_eq_extractLsb' (by rfl)]
  exact BitVec.extractLsb'_eq_self

/-- A header is its four fields (R101). -/
theorem header_ext_iff {h h' : Word} :
    h = h' ↔
      hiHalf h = hiHalf h' ∧ rsvField h = rsvField h' ∧ cField h = cField h' ∧ opField h = opField h' := by
  refine ⟨fun e => e ▸ ⟨rfl, rfl, rfl, rfl⟩, fun ⟨hn, hr, hc, ho⟩ => ?_⟩
  rw [← header_appended h, ← header_appended h', hn, hr, hc, ho]

theorem nField_le (h : Word) : nField h ≤ 65535 := Nat.le_of_lt_succ (BitVec.isLt _)

theorem eq_code_of_opOfCode {b : Byte} {op : Op} (h : opOfCode b = some op) : b = op.code := by
  unfold opOfCode at h
  split at h <;> cases h <;> exact BitVec.eq_of_toNat_eq ‹_›

theorem opOfCode_eq_some {b : Byte} {op : Op} : opOfCode b = some op ↔ b = op.code :=
  ⟨eq_code_of_opOfCode, fun h => h ▸ opOfCode_code op⟩

/-- R112: the opcodes listed are those of the default arm of the opcode map. -/
theorem opOfCode_eq_none (b : Byte) : opOfCode b = none ↔ unassignedCode b.toNat := by
  have hb := b.isLt
  unfold opOfCode unassignedCode
  split
  case h_27 =>
    simp only [imp_false, true_iff] at *
    omega
  all_goals
    simp only [reduceCtorEq, false_iff]
    omega

theorem headerWord_of_fields {h : Word} {op : Op} (ho : opField h = op.code) (hr : rsvField h = 0) :
    headerWord op (cField h) (nField h) = h := by
  obtain ⟨ho', hc', hr', hn'⟩ := headerWord_fields op (cField h) (nField h)
  rw [Nat.mod_eq_of_lt (show nField h < 2 ^ 16 from BitVec.isLt _)] at hn'
  exact header_ext_iff.mpr ⟨BitVec.eq_of_toNat_eq hn', hr'.trans hr.symm, hc', ho'.trans ho.symm⟩

/-! ### The decoder -/

/-- R110: what decodes passed every check, and is what its payload says. -/
theorem decodeDescriptor_ok_iff {h : Word} {p : List Word} {i : Instr} :
    decodeDescriptor h p = .ok i ↔ ∃ op, opField h = op.code ∧ rsvField h = 0
      ∧ (cField h = true → op.usesC = true) ∧ requiredN op p = some (nField h) ∧ payloadRsvZero op p = true
      ∧ buildInstr op (cField h) p = i := by
  unfold decodeDescriptor
  split
  · next hn =>
    refine iff_of_false nofun fun ⟨op, ho, _⟩ => ?_
    rw [opOfCode_eq_some.mpr ho] at hn
    cases hn
  · next op ho =>
    have hop : ∀ op', opField h = op'.code ↔ op' = op := fun op' => by
      rw [← opOfCode_eq_some, ho, Option.some_inj, eq_comm]
    simp only [hop, exists_eq_left]
    split_ifs <;> simp_all

/-- R100, R103: a header and exactly its N payload words, whatever follows. -/
theorem decode_ok_iff {ws : List Word} {i : Instr} {rest : List Word} :
    decode ws = .ok (i, rest) ↔
      ∃ h p, ws = h :: (p ++ rest) ∧ p.length = nField h ∧ decodeDescriptor h p = .ok i := by
  constructor
  · intro hd
    cases ws with
    | nil => cases hd
    | cons h ws =>
      have hrest := decode_rest hd
      simp only [decode] at hd
      split at hd
      · cases hd
      · next hl =>
        refine ⟨h, ws.take (nField h), by rw [hrest, List.take_append_drop], List.length_take_of_le (by omega), ?_⟩
        split at hd <;> cases hd
        assumption
  · rintro ⟨h, p, rfl, hl, hd⟩
    simp [decode, ← hl, hd]

theorem decode_exact {h : Word} {p : List Word} {i : Instr} (hl : p.length = nField h) :
    decode (h :: p) = .ok (i, []) ↔ decodeDescriptor h p = .ok i := by
  refine ⟨fun hd => ?_, fun hd => decode_ok_iff.mpr ⟨h, p, by rw [List.append_nil], hl, hd⟩⟩
  obtain ⟨h', p', he, -, hd'⟩ := decode_ok_iff.mp hd
  rw [List.append_nil] at he
  cases he
  exact hd'

/-! ### The payload an instruction encodes -/

theorem colour_ofBit_bit (c : Colour) : Colour.ofBit c.bit = c := by cases c <;> rfl

theorem length_payload_le {i : Instr} (h : i.wf = true) : i.payload.length ≤ 65535 := by
  revert h
  cases i with
  | loadRaw bytes => exact Laws.Framing.loadRaw bytes
  | polyline c vs => exact Laws.Framing.polyline c vs
  | bitmap c x y w ht bytes => exact Laws.Framing.bitmap c x y w ht bytes
  | writeString c font chars => exact Laws.Framing.writeString c font chars
  | _ => exact Laws.Framing.of_fixed (by simp [Instr.payload])

/-! The length operand of a well-formed instruction holds the length. -/

theorem loadRaw_length {bytes : List Byte} (h : (Instr.loadRaw bytes).wf = true) :
    (BitVec.ofNat 32 bytes.length).toNat = bytes.length := by
  simp only [Instr.wf, decide_eq_true_eq] at h
  unfold divUp at h
  exact toNat_ofNat_of_lt (by omega)

theorem polyline_length {c : Colour} {vs : List Vertex} (h : (Instr.polyline c vs).wf = true) :
    (BitVec.ofNat 16 vs.length).toNat = vs.length := by
  simp only [Instr.wf, decide_eq_true_eq] at h
  exact toNat_ofNat_of_lt (by omega)

theorem bitmap_length {c : Colour} {x y w ht : Half} {bytes : List Byte}
    (h : (Instr.bitmap c x y w ht bytes).wf = true) : divUp w.toNat 8 * ht.toNat = bytes.length := by
  simp only [Instr.wf, Bool.and_eq_true, decide_eq_true_eq] at h
  exact h.1.symm

theorem writeString_length {c : Colour} {font : Byte} {chars : List Byte}
    (h : (Instr.writeString c font chars).wf = true) : (BitVec.ofNat 16 chars.length).toNat = chars.length := by
  simp only [Instr.wf, decide_eq_true_eq] at h
  exact toNat_ofNat_of_lt (by omega)

@[simp] theorem payloadWord_zero (v : Word) (p : List Word) : payloadWord (v :: p) 0 = v := rfl

@[simp] theorem payloadWord_succ (v : Word) (p : List Word) (k : Nat) :
    payloadWord (v :: p) (k + 1) = payloadWord p k := rfl

/-- The payload has the one length its op accepts (R108). -/
theorem requiredN_payload {i : Instr} (h : i.wf = true) : requiredN i.op i.payload = some i.payload.length := by
  cases i with
  | loadRaw bytes =>
    simp only [Instr.op, requiredN, Instr.payload, List.getElem?_cons_zero, Option.map_some, loadRaw_length h,
      List.length_cons, length_wordsOfBytes, Nat.add_comm]
  | polyline c vs =>
    simp only [Instr.op, requiredN, Instr.payload, List.getElem?_cons_zero, Option.map_some, loHalf_halves,
      polyline_length h, List.length_cons, List.length_map, Nat.add_comm]
  | bitmap c x y w ht bytes =>
    simp [Instr.op, requiredN, Instr.payload, bitmap_length h, length_wordsOfBytes, Nat.add_comm 2]
  | writeString c font chars =>
    simp only [Instr.op, requiredN, Instr.payload, List.getElem?_cons_zero, Option.map_some, lengthFont_fields,
      writeString_length h, List.length_cons, length_wordsOfBytes, Nat.add_comm]
  | _ => rfl

theorem payloadRsvZero_payload (i : Instr) : payloadRsvZero i.op i.payload = true := by
  cases i with
  | circle | fillCircle | arc | arcRL | polyline | writeChar | scrollR | scrollL | scrollDR | scrollDL =>
    simp [Instr.op, Instr.payload, payloadRsvZero]
  | writeString => simp [Instr.op, Instr.payload, payloadRsvZero, lengthFont_fields]
  | setContrast v => simp [Instr.op, Instr.payload, payloadRsvZero, above_lane0_eq, byteLane_lanes]
  | _ => rfl

/-- Every operand is read back from the field it was written to (R106). -/
theorem buildInstr_payload {i : Instr} (h : i.wf = true) : buildInstr i.op i.cBit i.payload = i := by
  cases i with
  | loadRaw bytes =>
    simp only [Instr.op, buildInstr, Instr.payload, payloadWord_zero, loadRaw_length h, List.drop_one, List.tail_cons,
      take_bytesOfWords_wordsOfBytes]
  | polyline c vs =>
    simp [Instr.op, buildInstr, Instr.payload, Instr.cBit, colour_ofBit_bit, Function.comp_def, vertexOf]
  | bitmap c x y w ht bytes =>
    simp [Instr.op, buildInstr, Instr.payload, Instr.cBit, colour_ofBit_bit, bitmap_length h,
      take_bytesOfWords_wordsOfBytes]
  | writeString c font chars =>
    simp only [Instr.op, buildInstr, Instr.payload, Instr.cBit, colour_ofBit_bit, payloadWord_zero, lengthFont_fields,
      writeString_length h, List.drop_one, List.tail_cons, take_bytesOfWords_wordsOfBytes]
  | _ => simp [Instr.op, buildInstr, Instr.payload, Instr.cBit, colour_ofBit_bit, byteLane_lanes]

/-- Settles O1: an instruction's payload passes each check of R110, and is read back field by field. -/
theorem decodeOfEncodeIsTheInstruction : Obligations.DecodeOfEncodeIsTheInstruction := by
  intro i rest h
  obtain ⟨ho, hc, hr, hn⟩ := headerWord_fields i.op i.cBit i.payload.length
  rw [Nat.mod_eq_of_lt (Nat.lt_of_le_of_lt (length_payload_le h) (by decide))] at hn
  refine decode_ok_iff.mpr ⟨_, i.payload, rfl, hn.symm, ?_⟩
  refine decodeDescriptor_ok_iff.mpr ⟨i.op, ho, hr, ?_, ?_, payloadRsvZero_payload i, ?_⟩
  · rw [hc]
    exact usesC_of_cBit i
  · rw [hn]
    exact requiredN_payload h
  · rw [hc]
    exact buildInstr_payload h

/-! ### The payload an instruction is built from -/

theorem op_buildInstr (op : Op) (c : Bool) (p : List Word) : (buildInstr op c p).op = op := by cases op <;> rfl

theorem cBit_buildInstr {op : Op} {c : Bool} (h : c = true → op.usesC = true) (p : List Word) :
    (buildInstr op c p).cBit = c := by
  cases c with
  | false => cases op <;> rfl
  | true =>
    cases op with
    | loadRaw | setCursor | init | flush | setContrast | scrollR | scrollL | scrollDR | scrollDL | stopScroll
    | reset => cases h rfl
    | _ => rfl

/-- A payload whose first word gives the number of words after it has that word (R106: FRAW, FPOLY, FSTR). -/
theorem eq_cons_of_length {f : Word → Nat} {p : List Word} (h : (p[0]?.map fun p0 => 1 + f p0) = some p.length) :
    ∃ p0 ws, p = p0 :: ws ∧ ws.length = f p0 := by
  cases p with
  | nil => cases h
  | cons p0 ws =>
    simp only [List.getElem?_cons_zero, Option.map_some, Option.some.injEq, List.length_cons] at h
    exact ⟨p0, ws, rfl, by omega⟩

/-- A payload whose second word gives the number of words after it has both words (R106: FBMP). -/
theorem eq_cons_cons_of_length {f : Word → Nat} {p : List Word}
    (h : (p[1]?.map fun p1 => 2 + f p1) = some p.length) : ∃ p0 p1 ws, p = p0 :: p1 :: ws ∧ ws.length = f p1 := by
  match p with
  | [] => cases h
  | [_] => cases h
  | p0 :: p1 :: ws =>
    simp only [List.getElem?_cons_succ, List.getElem?_cons_zero, Option.map_some, Option.some.injEq,
      List.length_cons] at h
    exact ⟨p0, p1, ws, rfl, by omega⟩

/-- A byte area of as many words as n bytes need holds n bytes (R105). -/
theorem le_length_bytesOfWords {area : List Word} {n : Nat} (h : area.length = divUp n 4) :
    n ≤ (bytesOfWords area).length := by
  rw [length_bytesOfWords, h]
  unfold divUp
  omega

theorem length_take_bytesOfWords {area : List Word} {n : Nat} (h : area.length = divUp n 4) :
    ((bytesOfWords area).take n).length = n := List.length_take_of_le (le_length_bytesOfWords h)

theorem bytesOfWords_append (vs ws : List Word) : bytesOfWords (vs ++ ws) = bytesOfWords vs ++ bytesOfWords ws := by
  induction vs with
  | nil => rfl
  | cons v vs ih => simp [bytesOfWords, ih]

/-- The words after a byte area are not part of it (R105). -/
theorem take_bytesOfWords_append {area : List Word} {n : Nat} (h : area.length = divUp n 4) (rest : List Word) :
    (bytesOfWords (area ++ rest)).take n = (bytesOfWords area).take n := by
  rw [bytesOfWords_append, List.take_append_of_le_length (le_length_bytesOfWords h)]

/-- What is built of as many words as N can count is well-formed (R101). -/
theorem wf_buildInstr {op : Op} {p : List Word} (hN : requiredN op p = some p.length) (hl : p.length ≤ 65535)
    (c : Bool) : (buildInstr op c p).wf = true := by
  cases op with
  | loadRaw =>
    obtain ⟨p0, ws, rfl, hw⟩ := eq_cons_of_length hN
    simpa [buildInstr, Instr.wf, length_take_bytesOfWords hw, hw, Nat.add_comm] using hl
  | polyline =>
    obtain ⟨p0, ws, rfl, hw⟩ := eq_cons_of_length hN
    simpa [buildInstr, Instr.wf, Nat.add_comm] using hl
  | bitmap =>
    obtain ⟨p0, p1, ws, rfl, hw⟩ := eq_cons_cons_of_length hN
    rw [List.length_cons, List.length_cons, hw] at hl
    simp only [buildInstr, Instr.wf, payloadWord_succ, payloadWord_zero, List.drop_succ_cons, List.drop_zero,
      length_take_bytesOfWords hw, decide_true, Bool.true_and, decide_eq_true_eq]
    omega
  | writeString =>
    obtain ⟨p0, ws, rfl, hw⟩ := eq_cons_of_length hN
    simpa [buildInstr, Instr.wf, length_take_bytesOfWords hw] using Nat.le_of_lt_succ (loHalf p0).isLt
  | _ => rfl

/-- Without packed bytes, every bit of the payload is an operand or a reserved 0 (R106). -/
theorem payload_buildInstr {op : Op} {p : List Word} (hN : requiredN op p = some p.length)
    (hz : payloadRsvZero op p = true) {c : Bool} (ha : hasByteArea (buildInstr op c p) = false) :
    (buildInstr op c p).payload = p := by
  cases op with
  | fill | init | flush | setDisplayOn | invertDisplay | stopScroll | reset =>
    exact (List.length_eq_zero_iff.mp (Option.some.inj hN).symm).symm
  | setPixel | setCursor =>
    obtain ⟨p0, rfl⟩ := List.length_eq_one_iff.mp (Option.some.inj hN).symm
    simp [buildInstr, Instr.payload]
  | writeChar | scrollR | scrollL | scrollDR | scrollDL =>
    obtain ⟨p0, rfl⟩ := List.length_eq_one_iff.mp (Option.some.inj hN).symm
    have hp0 : hiHalf p0 = 0 := eq_of_beq hz
    simp [buildInstr, Instr.payload, lanes_of_hiHalf_zero hp0]
  | setContrast =>
    obtain ⟨p0, rfl⟩ := List.length_eq_one_iff.mp (Option.some.inj hN).symm
    exact congrArg (fun v => [v]) (lanes_of_above_lane0_zero (eq_of_beq hz))
  | line | rect | fillRect =>
    obtain ⟨p0, p1, rfl⟩ := List.length_eq_two.mp (Option.some.inj hN).symm
    simp [buildInstr, Instr.payload]
  | circle | fillCircle =>
    obtain ⟨p0, p1, rfl⟩ := List.length_eq_two.mp (Option.some.inj hN).symm
    have hp1 : hiHalf p1 = 0 := eq_of_beq hz
    simp [buildInstr, Instr.payload, halves_of_hiHalf_zero hp1]
  | arc | arcRL =>
    obtain ⟨p0, p1, p2, rfl⟩ := List.length_eq_three.mp (Option.some.inj hN).symm
    have hp1 : hiHalf p1 = 0 := eq_of_beq hz
    simp [buildInstr, Instr.payload, halves_of_hiHalf_zero hp1]
  | polyline =>
    obtain ⟨p0, ws, rfl, hw⟩ := eq_cons_of_length hN
    have hp0 : hiHalf p0 = 0 := eq_of_beq hz
    simp [buildInstr, Instr.payload, vertexOf, Function.comp_def, hw, halves_of_hiHalf_zero hp0]
  | loadRaw | bitmap | writeString => cases ha

/-- With packed bytes, the operand words are kept and the bytes are those of the words after them (R105, R106). -/
theorem payload_buildInstr_area {op : Op} {p : List Word} (hN : requiredN op p = some p.length)
    (hz : payloadRsvZero op p = true) {c : Bool} {i : Instr} (hi : buildInstr op c p = i) (ha : hasByteArea i = true) :
    ∃ operands area, p = operands ++ area ∧ operands.length + 1 = wordsBeforeBytes i
      ∧ i.payload = operands ++ wordsOfBytes (packedBytes i) ∧ area.length = divUp (packedBytes i).length 4
      ∧ (bytesOfWords area).take (packedBytes i).length = packedBytes i := by
  subst hi
  cases op with
  | loadRaw =>
    obtain ⟨p0, ws, rfl, hw⟩ := eq_cons_of_length hN
    refine ⟨[p0], ws, rfl, rfl, ?_, ?_, ?_⟩ <;>
      simp [buildInstr, packedBytes, Instr.payload, length_take_bytesOfWords hw, hw]
  | bitmap =>
    obtain ⟨p0, p1, ws, rfl, hw⟩ := eq_cons_cons_of_length hN
    refine ⟨[p0, p1], ws, rfl, rfl, ?_, ?_, ?_⟩ <;>
      simp [buildInstr, packedBytes, Instr.payload, length_take_bytesOfWords hw, hw]
  | writeString =>
    obtain ⟨p0, ws, rfl, hw⟩ := eq_cons_of_length hN
    refine ⟨[p0], ws, rfl, rfl, ?_, ?_, ?_⟩ <;>
      simp [buildInstr, packedBytes, Instr.payload, length_take_bytesOfWords hw, hw,
        lengthFont_of_lane3_zero (v := p0) (eq_of_beq hz)]
  | _ => cases ha

/-- What decodes is built of a payload that passed the checks, under a header of its own op, C bit and N. -/
theorem decodeDescriptor_built {h : Word} {p : List Word} {i : Instr} (hl : p.length = nField h)
    (hd : decodeDescriptor h p = .ok i) :
    requiredN i.op p = some p.length ∧ payloadRsvZero i.op p = true ∧ buildInstr i.op (cField h) p = i
      ∧ headerWord i.op i.cBit p.length = h := by
  obtain ⟨op, ho, hr, hc, hN, hz, rfl⟩ := decodeDescriptor_ok_iff.mp hd
  rw [op_buildInstr, cBit_buildInstr hc, hl, headerWord_of_fields ho hr]
  exact ⟨hN, hz, rfl, rfl⟩

theorem length_payload_of_decode {h : Word} {p : List Word} {i : Instr} (hl : p.length = nField h)
    (hd : decodeDescriptor h p = .ok i) : i.payload.length = p.length := by
  obtain ⟨hN, hz, hi, -⟩ := decodeDescriptor_built hl hd
  cases ha : hasByteArea i with
  | false => rw [← hi, payload_buildInstr hN hz (by rw [hi, ha])]
  | true =>
    obtain ⟨operands, area, rfl, -, hp, hlen, -⟩ := payload_buildInstr_area hN hz hi ha
    rw [hp, List.length_append, List.length_append, length_wordsOfBytes, hlen]

theorem encode_of_decode {h : Word} {p : List Word} {i : Instr} (hl : p.length = nField h)
    (hd : decodeDescriptor h p = .ok i) : encode i = h :: i.payload := by
  obtain ⟨-, -, -, hh⟩ := decodeDescriptor_built hl hd
  rw [encode, length_payload_of_decode hl hd, hh]

/-- Settles O2: an instruction is built of exactly N words, and N is at most 65535. -/
theorem decodedDescriptorIsFramedAndWellFormed : Obligations.DecodedDescriptorIsFramedAndWellFormed := by
  intro ws i rest hd
  obtain ⟨h, p, rfl, hl, hd⟩ := decode_ok_iff.mp hd
  obtain ⟨hN, -, hi, -⟩ := decodeDescriptor_built hl hd
  refine ⟨hi ▸ wf_buildInstr hN (hl ▸ nField_le h) _, h, p, rfl, hl, ?_⟩
  rw [encode_of_decode hl hd, List.length_cons, length_payload_of_decode hl hd, hl, Nat.add_comm]

/-- Settles O3: the header comes back from its fields, and the payload from its words or, with packed bytes, up to
padding. -/
theorem encodeOfDecodeIsTheWords : Obligations.EncodeOfDecodeIsTheWords := by
  intro ws i rest hd
  obtain ⟨h, p, rfl, hl, hd⟩ := decode_ok_iff.mp hd
  obtain ⟨hN, hz, hi, -⟩ := decodeDescriptor_built hl hd
  rw [encode_of_decode hl hd]
  refine ⟨fun ha => ?_, fun ha => ?_⟩
  · rw [← hi, payload_buildInstr hN hz (by rw [hi, ha])]
    rfl
  · obtain ⟨operands, area, rfl, hk, hp, hlen, hb⟩ := payload_buildInstr_area hN hz hi ha
    rw [hp, ← hk]
    refine ⟨?_, ?_, ?_, ?_, ?_⟩
    · simp
    · simp only [List.length_cons, List.length_append, length_wordsOfBytes, hlen]
      omega
    · simp [length_wordsOfBytes, ← hlen]
    · simpa [take_bytesOfWords_append hlen] using hb
    · simp [take_bytesOfWords_wordsOfBytes]

/-! ### The rows of R108 -/

/-- The op's row is its code, RSV = 0, C = 0 where the op does not use it, and N where the op fixes it:
`requiredN op []` is the N of an op whose N does not depend on the payload. -/
theorem headerRow_fields (op : Op) :
    (opField (headerRow op).1 = op.code ∧ opField (headerRow op).2 = BitVec.allOnes 8)
      ∧ (rsvField (headerRow op).1 = 0 ∧ rsvField (headerRow op).2 = BitVec.allOnes 7)
      ∧ (cField (headerRow op).1 = false ∧ cField (headerRow op).2 = !op.usesC)
      ∧ (hiHalf (headerRow op).1).toNat = (requiredN op []).getD 0
      ∧ hiHalf (headerRow op).2 = if requiredN op [] = none then 0 else BitVec.allOnes 16 := by
  cases op <;> decide

theorem requiredN_of_fixed {op : Op} {n : Nat} (h : requiredN op [] = some n) (p : List Word) :
    requiredN op p = some n := by
  cases op with
  | loadRaw | polyline | bitmap | writeString => cases h
  | _ => exact h

theorem header_and_fields (h m : Word) :
    hiHalf (h &&& m) = hiHalf h &&& hiHalf m ∧ rsvField (h &&& m) = rsvField h &&& rsvField m
      ∧ cField (h &&& m) = (cField h && cField m) ∧ opField (h &&& m) = opField h &&& opField m :=
  ⟨BitVec.extractLsb'_and, BitVec.extractLsb'_and, BitVec.getLsbD_and, BitVec.extractLsb'_and⟩

theorem matchesRow_iff (op : Op) (h : Word) :
    matchesRow op h ↔ opField h = op.code ∧ rsvField h = 0 ∧ (cField h = true → op.usesC = true)
      ∧ ∀ n, requiredN op [] = some n → nField h = n := by
  obtain ⟨⟨ho, ho'⟩, ⟨hr, hr'⟩, ⟨hc, hc'⟩, hn, hn'⟩ := headerRow_fields op
  have hN : hiHalf h &&& hiHalf (headerRow op).2 = hiHalf (headerRow op).1
      ↔ ∀ n, requiredN op [] = some n → nField h = n := by
    rw [hn', ← BitVec.toNat_inj, hn]
    cases requiredN op [] with
    | none => simp
    | some n =>
      rw [if_neg nofun, BitVec.and_allOnes]
      simp [nField, hiHalf]
  have hC : (cField h && cField (headerRow op).2) = cField (headerRow op).1
      ↔ (cField h = true → op.usesC = true) := by
    rw [hc, hc']
    cases cField h <;> simp
  obtain ⟨an, ar, ac, ao⟩ := header_and_fields h (headerRow op).2
  rw [matchesRow, header_ext_iff, an, ar, ac, ao, hN, hC, ho, ho', hr, hr', BitVec.and_allOnes, BitVec.and_allOnes]
  tauto

/-- Settles O4: the checks of R110 on the header are the row of R108 field by field. -/
theorem validHeadersAreTheRowsOfTheTable : Obligations.ValidHeadersAreTheRowsOfTheTable := by
  refine ⟨fun h p op hl => ⟨?_, ?_⟩, fun op op' h hm hm' => ?_⟩
  · rintro ⟨i, hd, rfl⟩
    obtain ⟨op, ho, hr, hc, hN, hz, rfl⟩ := decodeDescriptor_ok_iff.mp ((decode_exact hl).mp hd)
    rw [op_buildInstr]
    refine ⟨(matchesRow_iff op h).mpr ⟨ho, hr, hc, fun n hn => ?_⟩, hl ▸ hN, hz⟩
    rw [requiredN_of_fixed hn p] at hN
    exact (Option.some.inj hN).symm
  · rintro ⟨hm, hN, hz⟩
    obtain ⟨ho, hr, hc, -⟩ := (matchesRow_iff op h).mp hm
    refine ⟨buildInstr op (cField h) p, (decode_exact hl).mpr ?_, op_buildInstr ..⟩
    exact decodeDescriptor_ok_iff.mpr ⟨op, ho, hr, hc, hl ▸ hN, hz, rfl⟩
  · have hcode : op.code = op'.code := ((matchesRow_iff op h).mp hm).1.symm.trans ((matchesRow_iff op' h).mp hm').1
    rw [← Option.some_inj, ← opOfCode_code op, hcode, opOfCode_code]

/-- Settles O5, by decoding each. -/
theorem workedEncodingsDecode : Obligations.WorkedEncodingsDecode := ⟨rfl, rfl, rfl, rfl⟩

end Sys2Proof.Machine
end

section
namespace Sys2Proof.Machine

/-! ## Taking and discarding descriptors -/

theorem engineTurn_idle {s : State} {h : Word} {ws : List Word} (hp : s.phase = .idle) (hq : s.queue = h :: ws) :
    engineTurn s = takeDescriptor h ws s := by simp [engineTurn, hp, hq]

theorem engineTurn_discard {s : State} {k : Nat} {v : Word} {ws : List Word} (hp : s.phase = .discard k)
    (hq : s.queue = v :: ws) : engineTurn s = .next (discardWord k ws s) := by simp [engineTurn, hp, hq]

theorem length_of_decode {h : Word} {ws : List Word} {i : Instr} {rest : List Word}
    (hd : decode (h :: ws) = .ok (i, rest)) : nField h ≤ ws.length := by
  obtain ⟨h', p, he, hl, -⟩ := decode_ok_iff.mp hd
  cases he
  rw [List.length_append, hl]
  exact Nat.le_add_right ..

theorem takeDescriptor_run {s : State} {h : Word} {ws : List Word} {i : Instr} {rest : List Word}
    (hk : 1 + nField h ≤ s.cfg.cmdqDepth) (hd : decode (h :: ws) = .ok (i, rest)) :
    takeDescriptor h ws s = exec i { s with queue := rest } := by
  unfold takeDescriptor
  rw [if_neg (Nat.not_lt.mpr hk), if_neg (Nat.not_lt.mpr (length_of_decode hd)), hd]

theorem takeDescriptor_illegal {s : State} {h : Word} {ws : List Word} (hk : 1 + nField h ≤ s.cfg.cmdqDepth)
    (hl : nField h ≤ ws.length) (hi : illegalDescriptor h (ws.take (nField h))) :
    takeDescriptor h ws s = .next (complete { s with queue := ws.drop (nField h) } .illegal 0) := by
  obtain ⟨e, he⟩ := illegal_decodes_to_error hi
  have hd : decode (h :: ws) = .error e := by simp only [decode, if_neg (Nat.not_lt.mpr hl), he]
  unfold takeDescriptor
  rw [if_neg (Nat.not_lt.mpr hk), if_neg (Nat.not_lt.mpr hl), hd]
  rfl

theorem takeDescriptor_oversize {s : State} {h : Word} (ws : List Word) (hk : s.cfg.cmdqDepth < 1 + nField h) :
    takeDescriptor h ws s = .next { s with queue := ws, phase := .discard (nField h) } := if_pos hk

theorem discardWord_last (ws : List Word) (s : State) :
    discardWord 1 ws s = complete { s with queue := ws } .illegal 0 := rfl

theorem discardWord_more {k : Nat} (hk : 2 ≤ k) (ws : List Word) (s : State) :
    discardWord k ws s = { s with queue := ws, phase := .discard (k - 1) } := if_neg (by omega)

/-- A discarded descriptor leaves its status and what is left of Q, and nothing else (R110, R115). -/
theorem complete_discarded (s : State) (q : List Word) :
    Completed s (complete { s with queue := q } .illegal 0) .illegal 0
      ∧ SameFb s (complete { s with queue := q } .illegal 0)
      ∧ SameCursor s (complete { s with queue := q } .illegal 0)
      ∧ SameController s (complete { s with queue := q } .illegal 0)
      ∧ SameHost { s with queue := q } (complete { s with queue := q } .illegal 0) :=
  ⟨completed_complete rfl rfl .illegal 0, fun _ => rfl, .refl s, ⟨rfl, rfl, rfl, rfl, rfl⟩, .refl _⟩

/-- Settles O6: either way the engine takes the descriptor. -/
theorem stepRunsTheDecodedDescriptor : Obligations.StepRunsTheDecodedDescriptor := by
  intro s h ws i rest hp hq hk hd
  refine ⟨fun hs => ?_, fun ts hs => ?_⟩
  · rw [step_engine hs, engineTurn_idle hp hq, takeDescriptor_run hk hd]
  · have hturn : step s = engineTurn { s with schedule := ts } := by simp only [step, hs, takeTurn]
    rw [hturn, engineTurn_idle (s := { s with schedule := ts }) hp hq]
    exact takeDescriptor_run (s := { s with schedule := ts }) hk hd

/-- Settles O7: such a descriptor decodes to an error, whichever condition it meets. -/
theorem illegalDescriptorIsDiscarded : Obligations.IllegalDescriptorIsDiscarded := by
  refine ⟨opOfCode_eq_none, fun s h ws hs hp hq hk hl hi => ?_⟩
  have hstep : step s = .next (complete { s with queue := ws.drop (nField h) } .illegal 0) := by
    rw [step_engine hs, engineTurn_idle hp hq, takeDescriptor_illegal hk hl hi]
  exact ⟨_, hstep, complete_discarded s _⟩

theorem step_discard {s : State} {k : Nat} {v : Word} {ws : List Word} (hs : s.schedule = [])
    (hp : s.phase = .discard k) (hq : s.queue = v :: ws) : step s = .next (discardWord k ws s) := by
  rw [step_engine hs, engineTurn_discard hp hq]

/-- k words are discarded in k steps (R115). -/
theorem run_discard (v : Word) (ws rest : List Word) (s : State) (hs : s.schedule = [])
    (hp : s.phase = .discard (ws.length + 1)) (hq : s.queue = v :: ws ++ rest) :
    Host.Core.run Sys2Proof.core (ws.length + 1) s = .next (complete { s with queue := rest } .illegal 0) := by
  rw [run_succ (step_discard hs hp hq)]
  induction ws generalizing v s with
  | nil => exact congrArg _ (discardWord_last rest s)
  | cons w ws ih =>
    rw [List.length_cons, discardWord_more (by omega)]
    let t : State := { s with queue := w :: ws ++ rest, phase := .discard (ws.length + 1) }
    exact (run_succ (step_discard (s := t) hs rfl rfl) _).trans (ih w t hs rfl rfl)

/-- Settles O8: the header's step, a word's step, and the run over all the words. -/
theorem oversizeDescriptorIsDiscarded : Obligations.OversizeDescriptorIsDiscarded := by
  refine ⟨fun s h ws hs hp hq hk => ?_, fun s k v ws hs hp hq => ?_, fun s k ws rest hs hk hp hq hl => ?_⟩
  · rw [step_engine hs, engineTurn_idle hp hq, takeDescriptor_oversize ws hk]
  · rw [step_discard hs hp hq]
    refine ⟨fun hk => by rw [discardWord_more hk], ?_⟩
    rintro rfl
    exact ⟨_, congrArg _ (discardWord_last ws s), complete_discarded s ws⟩
  · subst hl
    cases ws with
    | nil => cases hk
    | cons v ws => exact ⟨_, run_discard v ws rest s hs hp hq, complete_discarded s rest⟩

end Sys2Proof.Machine
end

section
namespace Sys2Proof.Machine

/-! ## The framebuffer -/

theorem SameFb.refl (s : State) : SameFb s s := fun _ => rfl

theorem SameController.refl (s : State) : SameController s s := ⟨rfl, rfl, rfl, rfl, rfl⟩

/-! ### Bytes and the pixels in them -/

/-- Every bit of every byte below FBSIZE is an on-screen pixel (R31). -/
theorem exists_pixel_of_bit {c : Config} {a j : Nat} (ha : a < c.fbSize) (hj : j < 8) :
    ∃ x y, x < c.w ∧ y < c.h ∧ pixelByte c x y = a ∧ y % 8 = j := by
  obtain ⟨hw, -, -, -, -⟩ := config_legal c
  have hpage : a / c.w < c.h / 8 := Nat.div_lt_of_lt_mul (fbSize_eq c ▸ ha)
  refine ⟨a % c.w, 8 * (a / c.w) + j, Nat.mod_lt _ hw, by omega, ?_, by omega⟩
  rw [pixelByte, show (8 * (a / c.w) + j) / 8 = a / c.w by omega, Nat.div_add_mod']

/-- FB reads the same exactly when every pixel does and no byte past the screen differs. -/
theorem sameFb_iff_pixels {s t : State} (hc : t.cfg = s.cfg) :
    SameFb s t ↔ (∀ x y, x < s.cfg.w → y < s.cfg.h → getPx t x y = getPx s x y)
      ∧ ∀ a, s.cfg.fbSize ≤ a → Memory.read t.fb a = Memory.read s.fb a := by
  constructor
  · exact fun h => ⟨fun x y _ _ => by rw [getPx, getPx, hc, h], fun a _ => h a⟩
  · rintro ⟨hpx, habove⟩ a
    by_cases ha : s.cfg.fbSize ≤ a
    · exact habove a ha
    · refine BitVec.eq_of_getLsbD_eq fun j hj => ?_
      obtain ⟨x, y, hx, hy, rfl, rfl⟩ := exists_pixel_of_bit (Nat.lt_of_not_le ha) hj
      simpa only [getPx, hc] using hpx x y hx hy

/-- A canonical FB within its bounds reads 0 past the screen. -/
theorem read_above_of_fbOk {s : State} (h : FbOk s) {a : Nat} (ha : s.cfg.fbSize ≤ a) : Memory.read s.fb a = 0 :=
  read_of_not_mem _ _ fun d hd => Nat.ne_of_lt (Nat.lt_of_lt_of_le (h.2 d hd) ha)

theorem read_tabulate_below {n : Nat} (f : Nat → Byte) {a : Nat} (ha : a < n) :
    Memory.read (Memory.tabulate n f) a = f a := by rw [read_tabulate, if_pos ha]

/-- Rewriting all of FB leaves the bytes past the screen as a state within its bounds has them. -/
theorem read_tabulate_above {s : State} (h : FbOk s) (f : Nat → Byte) {a : Nat} (ha : s.cfg.fbSize ≤ a) :
    Memory.read (Memory.tabulate s.cfg.fbSize f) a = Memory.read s.fb a := by
  rw [read_tabulate, if_neg (Nat.not_lt.mpr ha), read_above_of_fbOk h ha]

/-! ### Painted states -/

theorem painted_paint (s : State) (P : List Point) (c : Colour) :
    Painted s (paint s P c) c (fun x y => px x y ∈ P) :=
  ⟨fun _ _ hx hy => ⟨fun h => (getPx_paint s P c hx hy).trans (if_pos h),
    fun h => (getPx_paint s P c hx hy).trans (if_neg h)⟩, fun _ ha => read_paint_above s P c ha⟩

/-- The colour and the on-screen pixels determine what painting leaves. -/
theorem Painted.sameFb {s t u : State} {c : Colour} {S S' : Nat → Nat → Prop} (ht : Painted s t c S)
    (hu : Painted s u c S') (hS : ∀ x y, S x y ↔ S' x y) (htc : t.cfg = s.cfg) (huc : u.cfg = s.cfg) : SameFb t u := by
  obtain ⟨htpx, htabove⟩ := ht
  obtain ⟨hupx, huabove⟩ := hu
  rw [sameFb_iff_pixels (huc.trans htc.symm), htc]
  refine ⟨fun x y hx hy => ?_, fun a ha => (huabove a ha).trans (htabove a ha).symm⟩
  by_cases h : S x y
  · exact ((hupx x y hx hy).1 ((hS x y).mp h)).trans ((htpx x y hx hy).1 h).symm
  · exact ((hupx x y hx hy).2 (h ∘ (hS x y).mpr)).trans ((htpx x y hx hy).2 h).symm

/-- Settles O23: each list paints its own set of pixels, and equal sets leave equal framebuffers. -/
theorem paintDependsOnlyOnTheSetOfPoints : Obligations.PaintDependsOnlyOnTheSetOfPoints := by
  refine fun s P c => ⟨painted_paint s P c, fun Q hPQ => ?_⟩
  exact (painted_paint s P c).sameFb (painted_paint s Q c) (fun x y => hPQ (px x y)) rfl rfl

/-! ### SETPIXEL -/

theorem exec_setPixel (c : Colour) (x y : Half) (s : State) :
    exec (.setPixel c x y) s = .next (complete (paint s [px x.toNat y.toNat] c) .ok 0) := rfl

/-- SETPIXEL paints its one pixel. -/
theorem setPixel_painted {c : Colour} {x y : Half} {s t : State} (h : exec (.setPixel c x y) s = .next t) :
    t.cfg = s.cfg ∧ Painted s t c (fun a b => (a, b) = (x.toNat, y.toNat)) := by
  obtain rfl := next_unique (exec_setPixel c x y s) h
  have hset (a b : Nat) : px a b ∈ [px x.toNat y.toNat] ↔ (a, b) = (x.toNat, y.toNat) := by simp [px]
  obtain ⟨hpx, habove⟩ := painted_paint s [px x.toNat y.toNat] c
  simp only [hset] at hpx
  exact ⟨rfl, hpx, habove⟩

/-- Settles O19: each state's pixels are those of the state before, but for the pixel painted. -/
theorem setPixelPairAndIdempotence : Obligations.SetPixelPairAndIdempotence := by
  intro x y s t u v hx hy ht hu hv
  obtain ⟨htc, htpx, htabove⟩ := setPixel_painted ht
  obtain ⟨huc, hupx, huabove⟩ := setPixel_painted hu
  obtain ⟨hvc, hvpx, hvabove⟩ := setPixel_painted hv
  rw [htc] at hupx huabove
  have hcleared : getPx u x.toNat y.toNat = false := (hupx _ _ hx hy).1 rfl
  have hother : ∀ a b, a < s.cfg.w → b < s.cfg.h → (a, b) ≠ (x.toNat, y.toNat) → getPx u a b = getPx s a b :=
    fun a b ha hb hne => ((hupx a b ha hb).2 hne).trans ((htpx a b ha hb).2 hne)
  refine ⟨hcleared, hother, ?_, ?_⟩
  · rw [sameFb_iff_pixels (huc.trans htc)]
    refine ⟨fun h => (h.1 _ _ hx hy).symm.trans hcleared, fun hwas => ⟨fun a b ha hb => ?_, fun i hi =>
      (huabove i hi).trans (htabove i hi)⟩⟩
    by_cases hab : (a, b) = (x.toNat, y.toNat)
    · cases hab
      exact hcleared.trans hwas.symm
    · exact hother a b ha hb hab
  · rw [sameFb_iff_pixels hvc]
    refine ⟨fun a b ha hb => ?_, hvabove⟩
    by_cases hab : (a, b) = (x.toNat, y.toNat)
    · exact ((hvpx a b ha hb).1 hab).trans ((htpx a b (htc ▸ ha) (htc ▸ hb)).1 hab).symm
    · exact (hvpx a b ha hb).2 hab

/-- Painting one on-screen point writes its byte (R140). -/
theorem paint_singleton_onScreen {s : State} {x y : Nat} (hx : x < s.cfg.w) (hy : y < s.cfg.h) (c : Colour) :
    (paint s [px x y] c).fb =
      Memory.write s.fb (pixelByte s.cfg x y) (paintBit (Memory.read s.fb (pixelByte s.cfg x y)) (y % 8) c) :=
  setPx_onScreen hx hy c s.fb

theorem paint_singleton_offScreen {s : State} {x y : Nat} (h : s.cfg.w ≤ x ∨ s.cfg.h ≤ y) (c : Colour) :
    (paint s [px x y] c).fb = s.fb := by
  refine setPx_offScreen (Bool.eq_false_iff.mpr fun hon => ?_) c s.fb
  obtain ⟨x', y', hx, hy, hp⟩ := onScreen_iff.mp hon
  simp only [px, Prod.mk.injEq, Int.natCast_inj] at hp
  omega

/-- Settles O18: on-screen SETPIXEL is one write of memory, off-screen none. -/
theorem setPixelWritesOneByte : Obligations.SetPixelWritesOneByte := by
  refine fun c x y s => ⟨_, exec_setPixel c x y s, completed_complete rfl rfl .ok 0, .refl s, .refl s, .refl s,
    fun hx hy => ?_, fun hoff a => ?_⟩
  · rw [complete_fb, paint_singleton_onScreen hx hy c]
    refine ⟨?_, fun a ha => read_write_other _ _ _ _ ha⟩
    cases c <;> exact read_write_same _ _ _
  · rw [complete_fb, paint_singleton_offScreen hoff c]

/-! ### FILL, LOADRAW and SETCURSOR -/

theorem fillByte_getLsbD (c : Colour) {k : Nat} (hk : k < 8) : (fillByte c).getLsbD k = c.bit := by
  cases c with
  | white => exact (show ∀ j < 8, (fillByte .white).getLsbD j = true by decide) k hk
  | black => exact BitVec.getLsbD_zero

theorem exec_fill (c : Colour) (s : State) :
    exec (.fill c) s = .next (complete (fillFb s (fillByte c)) .ok 0) := rfl

/-- Settles O20: FB becomes a table of one byte, each bit of which is the colour. -/
theorem fillWritesEveryByte : Obligations.FillWritesEveryByte := by
  refine fun c s => ⟨_, exec_fill c s, completed_complete rfl rfl .ok 0, .refl s, .refl s, .refl s,
    fun i hi => ?_, fun x y hx hy => ?_, fun hok i hi => read_tabulate_above hok _ hi⟩
  · cases c <;> exact read_tabulate_below _ hi
  · have hbyte : Memory.read (fillFb s (fillByte c)).fb (pixelByte s.cfg x y) = fillByte c :=
      read_tabulate_below _ (pixelByte_lt hx hy)
    exact (congrArg (·.getLsbD (y % 8)) hbyte).trans (fillByte_getLsbD c (Nat.mod_lt y (by decide)))

theorem exec_loadRaw_exact {bytes : List Byte} {s : State} (h : bytes.length = s.cfg.fbSize) :
    exec (.loadRaw bytes) s = .next (complete (loadFb s bytes) .ok 0) :=
  congrArg Host.Outcome.next (if_neg (not_not_intro h))

theorem exec_loadRaw_mismatch {bytes : List Byte} {s : State} (h : bytes.length ≠ s.cfg.fbSize) :
    exec (.loadRaw bytes) s = .next (complete s .sizeMismatch 0) :=
  congrArg Host.Outcome.next (if_pos h)

/-- Settles O21: FB becomes the table of the source bytes, or the completion is the only effect. -/
theorem loadRawReplacesOrMismatches : Obligations.LoadRawReplacesOrMismatches := by
  intro bytes s
  by_cases h : bytes.length = s.cfg.fbSize
  · refine ⟨_, exec_loadRaw_exact h, .refl s, .refl s, .refl s, fun _ => ⟨completed_complete rfl rfl .ok 0,
      fun i hi => ?_, fun hok i hi => read_tabulate_above hok _ hi⟩, fun hne => absurd h hne⟩
    rw [complete_fb, loadFb_fb, read_tabulate_below _ hi, List.getD_eq_getElem _ _ (h ▸ hi),
      List.getElem?_eq_getElem]
  · exact ⟨_, exec_loadRaw_mismatch h, .refl s, .refl s, .refl s, fun he => absurd he h,
      fun _ => ⟨completed_complete rfl rfl .sizeMismatch 0, .refl s⟩⟩

theorem exec_setCursor (x y : Half) (s : State) :
    exec (.setCursor x y) s = .next (complete { s with cursorX := x, cursorY := y } .ok 0) := rfl

/-- Settles O22: the completed state holds the operands and is otherwise the state before. -/
theorem setCursorStoresItsOperands : Obligations.SetCursorStoresItsOperands :=
  fun x y s => ⟨_, exec_setCursor x y s, completed_complete rfl rfl .ok 0, rfl, rfl, rfl, .refl s, .refl s, .refl s⟩

end Sys2Proof.Machine
end

section
namespace Sys2Proof.Machine

/-! ## The rasterizer -/

/-- A descriptor that paints a list and completes OK draws exactly the pixels of the list (R160). -/
theorem drawsExactly_of_paint {i : Instr} {s : State} {P : List Point} {c : Colour} {S : Nat → Nat → Prop}
    (he : exec i s = .next (complete (paint s P c) .ok 0)) (hS : ∀ x y, px x y ∈ P ↔ S x y) : DrawsExactly i s c S := by
  refine ⟨_, he, completed_complete rfl rfl .ok 0, ?_, .refl s, .refl s, .refl s⟩
  obtain rfl : (fun x y => px x y ∈ P) = S := funext₂ fun x y => propext (hS x y)
  exact painted_paint s P c

/-! ### The walk of a line -/

/-- How far across a line is after k steps along it: it moves across where the error term 2(k + 1)·dm - (2m + 1)·dM is positive
(R162). -/
def stepsAcross (dM dm : Nat) : Nat → Nat
  | 0 => 0
  | k + 1 =>
    if (2 * stepsAcross dM dm k + 1) * dM < 2 * (k + 1) * dm then stepsAcross dM dm k + 1 else stepsAcross dM dm k

theorem stepsAcross_cases (dM dm k : Nat) :
    (stepsAcross dM dm (k + 1) = stepsAcross dM dm k + 1 ∧ (2 * stepsAcross dM dm k + 1) * dM < 2 * (k + 1) * dm)
      ∨ (stepsAcross dM dm (k + 1) = stepsAcross dM dm k
          ∧ 2 * (k + 1) * dm ≤ (2 * stepsAcross dM dm k + 1) * dM) := by
  by_cases h : (2 * stepsAcross dM dm k + 1) * dM < 2 * (k + 1) * dm
  · exact .inl ⟨if_pos h, h⟩
  · exact .inr ⟨if_neg h, Nat.le_of_not_lt h⟩

/-- The walk never lags behind the line by more than half a row, a tie staying (R162). -/
theorem stepsAcross_upper {dM dm : Nat} (h : dm ≤ dM) (k : Nat) :
    2 * k * dm ≤ (2 * stepsAcross dM dm k + 1) * dM := by
  induction k with
  | zero => simp
  | succ k ih =>
    obtain ⟨he, -⟩ | ⟨he, hle⟩ := stepsAcross_cases dM dm k
    · rw [he]
      calc 2 * (k + 1) * dm = 2 * k * dm + 2 * dm := by ring
        _ ≤ (2 * stepsAcross dM dm k + 1) * dM + 2 * dM := by omega
        _ = (2 * (stepsAcross dM dm k + 1) + 1) * dM := by ring
    · rwa [he]

/-- Nor does it run ahead by half a row (R162). -/
theorem stepsAcross_lower (dM dm k : Nat) (hm : 0 < stepsAcross dM dm k) :
    (2 * stepsAcross dM dm k - 1) * dM < 2 * k * dm := by
  induction k with
  | zero => cases hm
  | succ k ih =>
    obtain ⟨he, hlt⟩ | ⟨he, -⟩ := stepsAcross_cases dM dm k
    · rw [he]
      exact hlt
    · rw [he] at hm ⊢
      calc (2 * stepsAcross dM dm k - 1) * dM < 2 * k * dm := ih hm
        _ ≤ 2 * (k + 1) * dm := by gcongr; omega

theorem stepsAcross_last {dM dm : Nat} (h : dm ≤ dM) : stepsAcross dM dm dM = dm := by
  rcases Nat.eq_zero_or_pos dM with rfl | hM
  · exact (Nat.le_zero.mp h).symm
  have hupper := stepsAcross_upper h dM
  rw [show 2 * dM * dm = 2 * dm * dM by ring] at hupper
  have hle : 2 * dm ≤ 2 * stepsAcross dM dm dM + 1 := Nat.le_of_mul_le_mul_right hupper hM
  rcases Nat.eq_zero_or_pos (stepsAcross dM dm dM) with hz | hm
  · omega
  · have hlower := stepsAcross_lower dM dm dM hm
    rw [show 2 * dM * dm = 2 * dm * dM by ring] at hlower
    have hlt : 2 * stepsAcross dM dm dM - 1 < 2 * dm := Nat.lt_of_mul_lt_mul_right hlower
    omega

theorem stepsAcross_mono (dM dm : Nat) : Monotone (stepsAcross dM dm) := by
  refine monotone_nat_of_le_succ fun k => ?_
  obtain ⟨he, -⟩ | ⟨he, -⟩ := stepsAcross_cases dM dm k <;> omega

theorem stepsAcross_le {dM dm k : Nat} (h : dm ≤ dM) (hk : k ≤ dM) : stepsAcross dM dm k ≤ dm :=
  (stepsAcross_mono dM dm hk).trans_eq (stepsAcross_last h)

/-- The point k steps along a walk with directions `sM` and `sm` (R162). -/
def walkPoint (dM dm : Nat) (sM sm M m : Int) (k : Nat) : Point := (M + k * sM, m + stepsAcross dM dm k * sm)

/-- The loop of R162 lists the points of its walk, from wherever it has got to. -/
theorem lineWalk_eq (dM dm : Nat) (sM sm M m : Int) (n k : Nat) :
    lineWalk dM dm sM sm n (2 * (k + 1) * dm - (2 * stepsAcross dM dm k + 1) * dM) (M + k * sM)
        (m + stepsAcross dM dm k * sm) = (List.range' k n).map (walkPoint dM dm sM sm M m) := by
  induction n generalizing k with
  | zero => rfl
  | succ n ih =>
    rw [lineWalk, List.range'_succ, List.map_cons, ← ih (k + 1)]
    refine congrArg (_ :: ·) ?_
    obtain ⟨he, hlt⟩ | ⟨he, hle⟩ := stepsAcross_cases dM dm k <;> rw [he]
    · have hpos : (0 : Int) < 2 * (k + 1) * dm - (2 * stepsAcross dM dm k + 1) * dM := by
        zify at hlt; exact Int.sub_pos.mpr hlt
      rw [if_pos hpos]
      congr 1 <;> push_cast <;> ring
    · have hneg : ¬ (0 : Int) < 2 * (k + 1) * dm - (2 * stepsAcross dM dm k + 1) * dM := by
        zify at hle; exact fun h => absurd (Int.sub_pos.mp h) (Int.not_lt.mpr hle)
      rw [if_neg hneg]
      congr 1 <;> push_cast <;> ring

/-- The point k steps along a line's dominant axis (R162). -/
def linePoint (x0 y0 x1 y1 : Int) (k : Nat) : Point :=
  if (y1 - y0).natAbs ≤ (x1 - x0).natAbs then
    walkPoint (x1 - x0).natAbs (y1 - y0).natAbs (x1 - x0).sign (y1 - y0).sign x0 y0 k
  else (walkPoint (y1 - y0).natAbs (x1 - x0).natAbs (y1 - y0).sign (x1 - x0).sign y0 x0 k).swap

theorem linePts_eq (x0 y0 x1 y1 : Int) :
    linePts x0 y0 x1 y1 =
      (List.range (max (x1 - x0).natAbs (y1 - y0).natAbs + 1)).map (linePoint x0 y0 x1 y1) := by
  have hwalk (dM dm : Nat) (sM sm M m : Int) : lineWalk dM dm sM sm (dM + 1) (2 * dm - dM) M m
      = (List.range (dM + 1)).map (walkPoint dM dm sM sm M m) := by
    simpa [stepsAcross, List.range_eq_range'] using lineWalk_eq dM dm sM sm M m (dM + 1) 0
  by_cases h : (y1 - y0).natAbs ≤ (x1 - x0).natAbs
  · rw [max_eq_left h, linePts, if_pos (by exact_mod_cast h), hwalk]
    exact List.map_congr_left fun k _ => (if_pos h).symm
  · rw [max_eq_right (Nat.le_of_not_le h), linePts, if_neg (by exact_mod_cast h), hwalk, List.map_map]
    exact List.map_congr_left fun k _ => (if_neg h).symm

theorem linePts_getElem? {x0 y0 x1 y1 : Int} {k : Nat} {p : Point} :
    (linePts x0 y0 x1 y1)[k]? = some p
      ↔ k ≤ max (x1 - x0).natAbs (y1 - y0).natAbs ∧ linePoint x0 y0 x1 y1 k = p := by
  simp only [linePts_eq, List.getElem?_map, Option.map_eq_some_iff, List.getElem?_eq_some_iff, List.getElem_range,
    List.length_range, exists_prop, Nat.lt_succ_iff]
  exact ⟨fun ⟨_, ⟨hk, rfl⟩, hp⟩ => ⟨hk, hp⟩, fun ⟨hk, hp⟩ => ⟨k, ⟨hk, rfl⟩, hp⟩⟩

theorem mem_linePts {x0 y0 x1 y1 : Int} {p : Point} :
    p ∈ linePts x0 y0 x1 y1 ↔ ∃ k ≤ max (x1 - x0).natAbs (y1 - y0).natAbs, linePoint x0 y0 x1 y1 k = p := by
  simp [linePts_eq]

/-! ### Steps and ends of a line -/

theorem natAbs_mul_sign {a : Nat} {d : Int} (h : a ≤ d.natAbs) : (a * d.sign).natAbs = a := by
  rw [Int.natAbs_mul, Int.natAbs_natCast, Int.natAbs_sign]
  split
  · next hd => simp_all
  · exact Nat.mul_one a

theorem mul_sign_between {a : Nat} {d : Int} (h : a ≤ d.natAbs) : min 0 d ≤ a * d.sign ∧ a * d.sign ≤ max 0 d := by
  rcases lt_trichotomy d 0 with hd | rfl | hd
  · rw [Int.sign_eq_neg_one_of_neg hd]
    omega
  · simp
  · rw [Int.sign_eq_one_of_pos hd]
    omega

theorem walkPoint_succ (dM dm : Nat) (sM sm M m : Int) (k : Nat) :
    (walkPoint dM dm sM sm M m (k + 1)).1 = (walkPoint dM dm sM sm M m k).1 + sM
      ∧ ((walkPoint dM dm sM sm M m (k + 1)).2 = (walkPoint dM dm sM sm M m k).2
          ∨ (walkPoint dM dm sM sm M m (k + 1)).2 = (walkPoint dM dm sM sm M m k).2 + sm) := by
  refine ⟨by simp only [walkPoint]; push_cast; ring, ?_⟩
  obtain ⟨he, -⟩ | ⟨he, -⟩ := stepsAcross_cases dM dm k
  · exact .inr (by simp only [walkPoint, he]; push_cast; ring)
  · exact .inl (by simp only [walkPoint, he])

/-- After k steps the offset across is the one nearest to the line, a tie staying (R162). -/
theorem walkPoint_nearest {d e : Int} (h : e.natAbs ≤ d.natAbs) (M m : Int) {k : Nat} (hk : k ≤ d.natAbs) :
    let o := ((walkPoint d.natAbs e.natAbs d.sign e.sign M m k).2 - m).natAbs
    (2 * k * e.natAbs : Int) ≤ (2 * o + 1) * d.natAbs
      ∧ (0 < k → (2 * o - 1 : Int) * d.natAbs < 2 * k * e.natAbs) := by
  have ho : ((walkPoint d.natAbs e.natAbs d.sign e.sign M m k).2 - m).natAbs = stepsAcross d.natAbs e.natAbs k := by
    simp only [walkPoint, add_sub_cancel_left]
    exact natAbs_mul_sign (stepsAcross_le h hk)
  rw [ho]
  refine ⟨by exact_mod_cast stepsAcross_upper h k, fun hpos => ?_⟩
  rcases Nat.eq_zero_or_pos (stepsAcross d.natAbs e.natAbs k) with hz | hm
  · rw [hz]
    have : (0 : Int) ≤ 2 * k * e.natAbs := by positivity
    omega
  · have hlower := stepsAcross_lower d.natAbs e.natAbs k hm
    zify [show 1 ≤ 2 * stepsAcross d.natAbs e.natAbs k by omega] at hlower ⊢
    exact hlower

theorem linePoint_zero (x0 y0 x1 y1 : Int) : linePoint x0 y0 x1 y1 0 = (x0, y0) := by
  simp [linePoint, walkPoint, stepsAcross]

theorem walkPoint_last {d e : Int} (h : e.natAbs ≤ d.natAbs) (M m : Int) :
    walkPoint d.natAbs e.natAbs d.sign e.sign M m d.natAbs = (M + d, m + e) := by
  rw [walkPoint, stepsAcross_last h, mul_comm, Int.sign_mul_natAbs, mul_comm, Int.sign_mul_natAbs]

theorem linePoint_last (x0 y0 x1 y1 : Int) :
    linePoint x0 y0 x1 y1 (max (x1 - x0).natAbs (y1 - y0).natAbs) = (x1, y1) := by
  unfold linePoint
  split
  · next h => rw [max_eq_left h, walkPoint_last h, add_sub_cancel, add_sub_cancel]
  · next h =>
    have h := Nat.le_of_not_le h
    rw [max_eq_right h, walkPoint_last h, Prod.swap_prod_mk, add_sub_cancel, add_sub_cancel]

theorem walkPoint_injective {d e M m : Int} {j k : Nat} (hj : j ≤ d.natAbs) (hk : k ≤ d.natAbs)
    (h : walkPoint d.natAbs e.natAbs d.sign e.sign M m j = walkPoint d.natAbs e.natAbs d.sign e.sign M m k) :
    j = k := by
  have hM : (j * d.sign : Int) = k * d.sign := Int.add_left_cancel (congrArg Prod.fst h)
  rw [← natAbs_mul_sign hj, hM, natAbs_mul_sign hk]

theorem linePts_nodup (x0 y0 x1 y1 : Int) : (linePts x0 y0 x1 y1).Nodup := by
  rw [linePts_eq]
  refine List.Nodup.map_on (fun j hj k hk h => ?_) List.nodup_range
  rw [List.mem_range, Nat.lt_succ_iff] at hj hk
  unfold linePoint at h
  split at h
  · next hd => rw [max_eq_left hd] at hj hk; exact walkPoint_injective hj hk h
  · next hd =>
    rw [max_eq_right (Nat.le_of_not_le hd)] at hj hk
    exact walkPoint_injective hj hk (Prod.swap_injective h)

/-- Settles O25: the points are those of a walk along the dominant axis, one for each number of steps. -/
theorem linePointsRunFromEndToEnd : Obligations.LinePointsRunFromEndToEnd := by
  intro x0 y0 x1 y1
  refine ⟨by simp [linePts_eq], ?_, ?_, linePts_nodup x0 y0 x1 y1, fun k p q hp hq => ?_, fun k p hp => ?_⟩
  · rw [List.head?_eq_getElem?, linePts_getElem?]
    exact ⟨Nat.zero_le _, linePoint_zero x0 y0 x1 y1⟩
  · rw [List.getLast?_eq_getElem?, linePts_getElem?, linePts_eq, List.length_map, List.length_range]
    exact ⟨le_rfl, linePoint_last x0 y0 x1 y1⟩
  · obtain ⟨-, rfl⟩ := linePts_getElem?.mp hp
    obtain ⟨-, rfl⟩ := linePts_getElem?.mp hq
    simp only [linePoint, Nat.cast_le]
    split <;> exact walkPoint_succ ..
  · obtain ⟨hk, rfl⟩ := linePts_getElem?.mp hp
    simp only [linePoint, Nat.cast_le]
    split
    · next h => exact walkPoint_nearest h x0 y0 (max_eq_left h ▸ hk)
    · next h =>
      have h := Nat.le_of_not_le h
      exact walkPoint_nearest h y0 x0 (max_eq_right h ▸ hk)

/-- Settles O24: LINE paints its list. -/
theorem linePaintsItsPoints : Obligations.LinePaintsItsPoints :=
  fun _ _ _ _ _ _ => drawsExactly_of_paint rfl fun _ _ => Iff.rfl

/-! ### Which points lie on a line -/

/-- A line stays between its end points. -/
theorem linePts_between {x0 y0 x1 y1 : Int} {p : Point} (h : p ∈ linePts x0 y0 x1 y1) :
    (min x0 x1 ≤ p.1 ∧ p.1 ≤ max x0 x1) ∧ min y0 y1 ≤ p.2 ∧ p.2 ≤ max y0 y1 := by
  have hwalk {d e : Int} (hd : e.natAbs ≤ d.natAbs) {k : Nat} (hk : k ≤ d.natAbs) :=
    And.intro (mul_sign_between hk) (mul_sign_between (stepsAcross_le hd hk))
  obtain ⟨k, hk, rfl⟩ := mem_linePts.mp h
  unfold linePoint
  split
  · next hd =>
    have := hwalk hd (max_eq_left hd ▸ hk)
    simp only [walkPoint]
    omega
  · next hd =>
    have hd := Nat.le_of_not_le hd
    have := hwalk hd (max_eq_right hd ▸ hk)
    simp only [walkPoint, Prod.swap_prod_mk]
    omega

/-- A point between the ends of the dominant axis is that many steps along it. -/
theorem exists_mul_sign {d v : Int} (h : min 0 d ≤ v ∧ v ≤ max 0 d) : ∃ k ≤ d.natAbs, (k * d.sign : Int) = v := by
  refine ⟨v.natAbs, by omega, ?_⟩
  rcases lt_trichotomy d 0 with hd | rfl | hd
  · rw [Int.sign_eq_neg_one_of_neg hd]
    omega
  · simp only [Int.sign_zero]
    omega
  · rw [Int.sign_eq_one_of_pos hd]
    omega

/-- A line along a row is every point of the row between its ends. -/
theorem mem_linePts_row {x0 x1 y : Int} {p : Point} :
    p ∈ linePts x0 y x1 y ↔ (min x0 x1 ≤ p.1 ∧ p.1 ≤ max x0 x1) ∧ p.2 = y := by
  refine ⟨fun h => ?_, fun ⟨hx, hy⟩ => ?_⟩
  · obtain ⟨hx, hy⟩ := linePts_between h
    exact ⟨hx, by omega⟩
  · obtain ⟨k, hk, he⟩ := exists_mul_sign (d := x1 - x0) (v := p.1 - x0) (by omega)
    refine mem_linePts.mpr ⟨k, hk.trans (le_max_left _ _), ?_⟩
    simp only [linePoint, sub_self, Int.natAbs_zero, zero_le, ↓reduceIte, walkPoint, he, Int.sign_zero, mul_zero]
    ext <;> simp [hy]

/-- A line along a column is every point of the column between its ends. -/
theorem mem_linePts_column {x y0 y1 : Int} {p : Point} :
    p ∈ linePts x y0 x y1 ↔ p.1 = x ∧ min y0 y1 ≤ p.2 ∧ p.2 ≤ max y0 y1 := by
  by_cases hy : y1 = y0
  · rw [hy, mem_linePts_row]
    omega
  refine ⟨fun h => ?_, fun ⟨hx, hp⟩ => ?_⟩
  · obtain ⟨hx, hp⟩ := linePts_between h
    exact ⟨by omega, hp⟩
  · obtain ⟨k, hk, he⟩ := exists_mul_sign (d := y1 - y0) (v := p.2 - y0) (by omega)
    refine mem_linePts.mpr ⟨k, hk.trans (le_max_right _ _), ?_⟩
    have hsteep : ¬ (y1 - y0).natAbs ≤ 0 := by omega
    simp only [linePoint, sub_self, Int.natAbs_zero, hsteep, ↓reduceIte, walkPoint, he, Int.sign_zero, mul_zero]
    ext <;> simp [hx]

/-! ### Rectangles -/

theorem mem_rectPts {x0 y0 x1 y1 : Int} {p : Point} :
    p ∈ rectPts x0 y0 x1 y1 ↔
      (min x0 x1 ≤ p.1 ∧ p.1 ≤ max x0 x1 ∧ (p.2 = min y0 y1 ∨ p.2 = max y0 y1))
        ∨ (min y0 y1 ≤ p.2 ∧ p.2 ≤ max y0 y1 ∧ (p.1 = min x0 x1 ∨ p.1 = max x0 x1)) := by
  simp only [rectPts, List.mem_append, mem_linePts_row, mem_linePts_column]
  omega

theorem mem_fillRectPts {x0 y0 x1 y1 : Int} {p : Point} :
    p ∈ fillRectPts x0 y0 x1 y1 ↔
      min x0 x1 ≤ p.1 ∧ p.1 ≤ max x0 x1 ∧ min y0 y1 ≤ p.2 ∧ p.2 ≤ max y0 y1 := by
  simp only [fillRectPts, List.bind_eq_flatMap, List.pure_def, List.mem_flatMap, List.mem_range, List.mem_singleton,
    mem_linePts_row]
  exact ⟨fun ⟨_, ⟨k, hk, rfl⟩, hx, hy⟩ => by omega,
    fun h => ⟨p.2 - min y0 y1, ⟨(p.2 - min y0 y1).toNat, by omega, by omega⟩, by omega, by omega⟩⟩

/-- The outline is that of the least and the greatest coordinates, whichever corner comes first (R165). -/
theorem rectPts_corners (x0 y0 x1 y1 : Int) :
    rectPts x1 y0 x0 y1 = rectPts x0 y0 x1 y1 ∧ rectPts x0 y1 x1 y0 = rectPts x0 y0 x1 y1 := by
  constructor
  · simp only [rectPts, min_comm x1, max_comm x1]
  · simp only [rectPts, min_comm y1, max_comm y1]

/-- Settles O26: four lines between the least and greatest coordinates. -/
theorem rectPaintsItsOutline : Obligations.RectPaintsItsOutline := by
  intro c x0 y0 x1 y1 s
  refine ⟨drawsExactly_of_paint rfl fun x y => ?_, ?_, ?_, ?_⟩
  · rw [mem_rectPts]
    simp only [px, coord]
    omega
  · simp only [exec, execRect]
    rw [(rectPts_corners _ _ _ _).1, (rectPts_corners _ _ _ _).2]
  · simp only [exec, execRect, (rectPts_corners _ _ _ _).2]
  · simp only [exec, execRect, (rectPts_corners _ _ _ _).1]

/-- Settles O27: one row after another. -/
theorem fillRectPaintsItsArea : Obligations.FillRectPaintsItsArea := by
  refine fun c x0 y0 x1 y1 s => drawsExactly_of_paint rfl fun x y => ?_
  rw [mem_fillRectPts]
  simp only [px, coord]
  omega

end Sys2Proof.Machine
end

section
namespace Sys2Proof.Machine

/-! ## Circles -/

/-! ### The octant walk -/

/-- The decision variable of R170 at an octant point. -/
def decision (r : Nat) (p : Point) : Int := (p.1 + 1) * (p.1 + 1) + p.2 * p.2 - p.2 - r * r

/-- The octant point after `p` (R170). -/
def octantNext (r : Nat) (p : Point) : Point := (p.1 + 1, if decision r p < 0 then p.2 else p.2 - 1)

/-- The loop of R170 from the octant point `p`. -/
def octantWalk (r n : Nat) (p : Point) : List Point := circleLoop n p.1 p.2 (decision r p)

theorem circleSteps_eq (r : Nat) : circleSteps r = octantWalk r (r + 1) (0, r) := by
  rw [circleSteps, octantWalk, decision]
  congr 1
  ring

/-- The loop's update of its decision variable keeps it what it stands for. -/
theorem decision_octantNext (r : Nat) (p : Point) :
    decision r (octantNext r p) = if decision r p < 0 then decision r p + 2 * (p.1 + 1) + 1
      else decision r p + 2 * (p.1 + 1 - (p.2 - 1)) + 1 := by
  unfold octantNext
  split <;> · simp only [decision]; ring

theorem octantWalk_succ (r n : Nat) (p : Point) :
    octantWalk r (n + 1) p = if p.1 ≤ p.2 then p :: octantWalk r n (octantNext r p) else [] := by
  simp only [octantWalk, circleLoop, decision_octantNext]
  unfold octantNext
  by_cases hd : decision r p < 0 <;> simp only [hd, ↓reduceIte]

theorem octantWalk_nil {r : Nat} {p : Point} (h : p.2 < p.1) (n : Nat) : octantWalk r n p = [] := by
  cases n with
  | zero => rfl
  | succ n => rw [octantWalk_succ, if_neg (Int.not_le.mpr h)]

theorem octantWalk_cons {r : Nat} {p : Point} (h : p.1 ≤ p.2) (n : Nat) :
    octantWalk r (n + 1) p = p :: octantWalk r n (octantNext r p) := by rw [octantWalk_succ, if_pos h]

theorem octantNext_fst (r : Nat) (p : Point) : (octantNext r p).1 = p.1 + 1 := rfl

theorem octantNext_snd (r : Nat) (p : Point) :
    ((octantNext r p).2 = p.2 ∧ decision r p < 0) ∨ ((octantNext r p).2 = p.2 - 1 ∧ ¬ decision r p < 0) := by
  unfold octantNext
  split
  · next h => exact .inl ⟨rfl, h⟩
  · next h => exact .inr ⟨rfl, h⟩

theorem octantWalk_bounds {r n : Nat} {p q : Point} (h : q ∈ octantWalk r n p) :
    p.1 ≤ q.1 ∧ q.1 ≤ q.2 ∧ q.2 ≤ p.2 := by
  induction n generalizing p with
  | zero => cases h
  | succ n ih =>
    rw [octantWalk_succ] at h
    split at h
    · next hp =>
      rcases List.mem_cons.mp h with rfl | h
      · exact ⟨le_rfl, hp, le_rfl⟩
      · have hx := octantNext_fst r p
        have hy := octantNext_snd r p
        have := ih h
        omega
    · cases h

theorem octantWalk_head {r n : Nat} {p q : Point} (h : (octantWalk r n p)[0]? = some q) : q = p := by
  cases n with
  | zero => cases h
  | succ n =>
    rw [octantWalk_succ] at h
    split at h
    · exact (Option.some.inj h).symm
    · cases h

theorem octantWalk_consecutive {r n k : Nat} {p q q' : Point} (hq : (octantWalk r n p)[k]? = some q)
    (hq' : (octantWalk r n p)[k + 1]? = some q') : q' = octantNext r q := by
  induction n generalizing k p with
  | zero => cases hq
  | succ n ih =>
    rw [octantWalk_succ] at hq hq'
    split at hq
    · next hp =>
      rw [if_pos hp, List.getElem?_cons_succ] at hq'
      cases k with
      | zero =>
        obtain rfl := Option.some.inj hq
        exact octantWalk_head hq'
      | succ k => exact ih hq hq'
    · cases hq

/-- Where the fuel is enough, x has passed y after the last point. -/
theorem octantWalk_stops {r n : Nat} {p q : Point} (hn : p.2 - p.1 < n) (h : (octantWalk r n p).getLast? = some q) :
    (octantNext r q).2 < (octantNext r q).1 := by
  induction n generalizing p with
  | zero => cases h
  | succ n ih =>
    have hx := octantNext_fst r p
    have hy := octantNext_snd r p
    rcases Int.lt_or_le p.2 p.1 with hp | hp
    · rw [octantWalk_nil hp] at h
      cases h
    rw [octantWalk_cons hp, List.getLast?_cons] at h
    rcases Int.lt_or_le (octantNext r p).2 (octantNext r p).1 with hs | hs
    · rw [octantWalk_nil hs] at h
      exact Option.some.inj h ▸ hs
    · obtain ⟨m, rfl⟩ : ∃ m, n = m + 1 := ⟨n - 1, by omega⟩
      refine ih (p := octantNext r p) (by omega) ?_
      rw [octantWalk_cons hs, List.getLast?_cons] at h ⊢
      exact h

theorem octantWalk_fuel {r n m : Nat} {p : Point} (hn : p.2 - p.1 < n) (hm : p.2 - p.1 < m) :
    octantWalk r n p = octantWalk r m p := by
  induction n generalizing m p with
  | zero => rw [octantWalk_nil (by omega), octantWalk_nil (by omega)]
  | succ n ih =>
    rcases Int.lt_or_le p.2 p.1 with hp | hp
    · rw [octantWalk_nil hp, octantWalk_nil hp]
    obtain ⟨m, rfl⟩ : ∃ k, m = k + 1 := ⟨m - 1, by omega⟩
    have hx := octantNext_fst r p
    have hy := octantNext_snd r p
    rw [octantWalk_cons hp, octantWalk_cons hp, ih (m := m) (by omega) (by omega)]

/-- Every offset of the octant and its mirror image is a coordinate of a point of the walk: the walk leaves no column out, and no row
before x passes y. -/
theorem octantWalk_covers {r n : Nat} {p : Point} (hn : p.2 - p.1 < n) {v : Int} (hv : p.1 ≤ v ∧ v ≤ p.2) :
    ∃ q ∈ octantWalk r n p, q.1 = v ∨ q.2 = v := by
  induction n generalizing p with
  | zero => omega
  | succ n ih =>
    rw [octantWalk_cons (hv.1.trans hv.2)]
    by_cases he : p.1 = v ∨ p.2 = v
    · exact ⟨p, List.mem_cons_self, he⟩
    · have hx := octantNext_fst r p
      have hy := octantNext_snd r p
      obtain ⟨q, hq, hqv⟩ := ih (p := octantNext r p) (by omega) (by omega)
      exact ⟨q, List.mem_cons_of_mem p hq, hqv⟩

theorem circleSteps_bounds {r : Nat} {p : Point} (h : p ∈ circleSteps r) : 0 ≤ p.1 ∧ p.1 ≤ p.2 ∧ p.2 ≤ r :=
  octantWalk_bounds (circleSteps_eq r ▸ h)

theorem circleSteps_consecutive {r k : Nat} {p q : Point} (hp : (circleSteps r)[k]? = some p)
    (hq : (circleSteps r)[k + 1]? = some q) : q = octantNext r p := by
  rw [circleSteps_eq] at hp hq
  exact octantWalk_consecutive hp hq

/-- Settles O29: the loop's points are the iterates of `octantNext` while x has not passed y. -/
theorem octantWalkIsConnectedAndComplete : Obligations.OctantWalkIsConnectedAndComplete := by
  intro r
  refine ⟨?_, fun p hp => circleSteps_bounds hp, fun k p q hp hq => ?_, fun p hp => ?_, fun n hn => ?_⟩
  · rw [circleSteps_eq, octantWalk_cons (Int.natCast_nonneg r), List.head?_cons]
  · obtain rfl := circleSteps_consecutive hp hq
    have hy := octantNext_snd r p
    simp only [decision, sub_neg] at hy
    exact ⟨rfl, by omega, by omega⟩
  · have hstop := octantWalk_stops (by simp) (circleSteps_eq r ▸ hp)
    simp only [octantNext, decision, sub_neg] at hstop
    exact Int.lt_add_one_iff.mp hstop
  · have hd : (1 - r : Int) = decision r (0, r) := by rw [decision]; ring
    rw [circleSteps_eq, hd]
    exact octantWalk_fuel (p := (0, r)) (by simpa using hn) (by simp)

/-! ### The images of the octant points -/

theorem natAbs_sub_eq_iff {c v a : Int} : (v - c).natAbs = a.natAbs ↔ v = c + a ∨ v = c - a := by omega

theorem mem_octants {cx cy x y : Int} {p : Point} :
    (x, y) ∈ octants cx cy p ↔
      ((x - cx).natAbs = p.1.natAbs ∧ (y - cy).natAbs = p.2.natAbs)
        ∨ ((x - cx).natAbs = p.2.natAbs ∧ (y - cy).natAbs = p.1.natAbs) := by
  simp only [octants, List.mem_cons, List.not_mem_nil, or_false, Prod.mk.injEq, natAbs_sub_eq_iff,
    and_or_left, or_and_right, or_assoc]

theorem mem_circlePts {cx cy x y : Int} {r : Nat} :
    (x, y) ∈ circlePts cx cy r ↔ ∃ p ∈ circleSteps r,
      ((x - cx).natAbs = p.1.natAbs ∧ (y - cy).natAbs = p.2.natAbs)
        ∨ ((x - cx).natAbs = p.2.natAbs ∧ (y - cy).natAbs = p.1.natAbs) := by
  simp only [circlePts, List.mem_flatMap, mem_octants]

theorem mem_linePts_centred {cx w v x y : Int} :
    (x, y) ∈ linePts (cx - w) v (cx + w) v ↔ (x - cx).natAbs ≤ w.natAbs ∧ y = v := by
  rw [mem_linePts_row]
  omega

theorem mem_spans {cx cy x y : Int} {p : Point} :
    (x, y) ∈ spans cx cy p ↔
      ((x - cx).natAbs ≤ p.1.natAbs ∧ (y - cy).natAbs = p.2.natAbs)
        ∨ ((x - cx).natAbs ≤ p.2.natAbs ∧ (y - cy).natAbs = p.1.natAbs) := by
  simp only [spans, List.mem_append, mem_linePts_centred, natAbs_sub_eq_iff]
  tauto

theorem mem_fillCirclePts {cx cy x y : Int} {r : Nat} :
    (x, y) ∈ fillCirclePts cx cy r ↔ ∃ p ∈ circleSteps r,
      ((x - cx).natAbs ≤ p.1.natAbs ∧ (y - cy).natAbs = p.2.natAbs)
        ∨ ((x - cx).natAbs ≤ p.2.natAbs ∧ (y - cy).natAbs = p.1.natAbs) := by
  simp only [fillCirclePts, List.mem_flatMap, mem_spans]

theorem circlePts_subset_fillCirclePts (cx cy : Int) (r : Nat) : circlePts cx cy r ⊆ fillCirclePts cx cy r := by
  intro (x, y) h
  obtain ⟨p, hp, hxy⟩ := mem_circlePts.mp h
  exact mem_fillCirclePts.mpr ⟨p, hp, hxy.imp (And.imp_left le_of_eq) (And.imp_left le_of_eq)⟩

/-- Settles O28: membership in the two lists, by absolute offsets from the centre. -/
theorem circlesPaintTheirPoints : Obligations.CirclesPaintTheirPoints :=
  fun _ _ _ _ _ => ⟨drawsExactly_of_paint rfl fun _ _ => mem_circlePts,
    drawsExactly_of_paint rfl fun _ _ => mem_fillCirclePts⟩

/-- Settles O30: the set depends on the absolute offsets alone, and both coordinates step by at most one. -/
theorem circleIsSymmetricAndClosed : Obligations.CircleIsSymmetricAndClosed := by
  refine ⟨fun cx cy r x y h => ?_, fun r k p q hp hq => ?_⟩
  · have hmirror (c v : Int) : (2 * c - v - c).natAbs = (v - c).natAbs := by omega
    simp only [mem_circlePts, hmirror, add_sub_cancel_left] at h ⊢
    obtain ⟨p, hp, hxy⟩ := h
    exact ⟨⟨p, hp, hxy⟩, ⟨p, hp, hxy⟩, ⟨p, hp, hxy.symm.imp And.symm And.symm⟩⟩
  · obtain rfl := circleSteps_consecutive hp hq
    have hx := octantNext_fst r p
    have hy := octantNext_snd r p
    exact ⟨fun he => by rw [← he] at hx; omega, by omega, by omega⟩

/-! ### The rows of a filled circle -/

/-- Half the width of some span of FILLCIRCLE in the row v above or below the centre is at least `w`. -/
def SpanReaches (r v w : Nat) : Prop :=
  ∃ p ∈ circleSteps r, (w ≤ p.1.natAbs ∧ v = p.2.natAbs) ∨ (w ≤ p.2.natAbs ∧ v = p.1.natAbs)

theorem mem_fillCirclePts_iff_spanReaches {cx cy x y : Int} {r : Nat} :
    (x, y) ∈ fillCirclePts cx cy r ↔ SpanReaches r (y - cy).natAbs (x - cx).natAbs := mem_fillCirclePts

/-- The spans of a row have a widest one, since every row up to r has a span. -/
theorem exists_widest_span {r v : Nat} (hv : v ≤ r) : ∃ m, ∀ w, SpanReaches r v w ↔ w ≤ m := by
  classical
  have hzero : SpanReaches r v 0 := by
    obtain ⟨p, hp, he⟩ := octantWalk_covers (r := r) (n := r + 1) (p := (0, r)) (v := v)
      (by simp) (by simpa using hv)
    rw [← circleSteps_eq] at hp
    exact ⟨p, hp, by omega⟩
  have hle {w : Nat} (h : SpanReaches r v w) : w ≤ r := by
    obtain ⟨p, hp, he⟩ := h
    have := circleSteps_bounds hp
    omega
  obtain ⟨p, hp, he⟩ := Nat.findGreatest_spec (Nat.zero_le r) hzero
  exact ⟨_, fun w => ⟨fun h => Nat.le_findGreatest (hle h) h, fun h => ⟨p, hp, by omega⟩⟩⟩

/-- Settles O31: all spans of a row are centred on the same column, so the widest is their union. -/
theorem filledCircleHasOneSpanARow : Obligations.FilledCircleHasOneSpanARow := by
  refine fun cx cy r => ⟨fun _ h => circlePts_subset_fillCirclePts cx cy r h, fun p hp => ?_, fun y hlo hhi => ?_⟩
  · have himage {q : Point} (hq : q ∈ octants cx cy p) : q ∈ circlePts cx cy r := List.mem_flatMap.mpr ⟨p, hp, hq⟩
    refine ⟨himage ?_, himage ?_, himage ?_, himage ?_, himage ?_, himage ?_, himage ?_, himage ?_⟩ <;> simp [octants]
  · obtain ⟨m, hm⟩ := exists_widest_span (r := r) (v := (y - cy).natAbs) (by omega)
    refine ⟨cx - m, cx + m, by omega, fun x => ?_⟩
    rw [mem_fillCirclePts_iff_spanReaches, hm]
    omega

end Sys2Proof.Machine
end

section
namespace Sys2Proof.Machine

/-! ## Arcs -/

/-! ### Rounding -/

theorem rnd14_of_nonneg {v : Int} (h : 0 ≤ v) : rnd14 v = (v + 8192) / 16384 := if_pos h

theorem rnd14_of_neg {v : Int} (h : v < 0) : rnd14 v = -((-v + 8192) / 16384) := if_neg (Int.not_le.mpr h)

/-- Half away from zero: the error is at most half, and half only where the result is the greater in size (R181). -/
theorem rnd14_nearest (v : Int) :
    2 * (v - 16384 * rnd14 v).natAbs ≤ 16384
      ∧ (2 * (v - 16384 * rnd14 v).natAbs = 16384 → v.natAbs < (16384 * rnd14 v).natAbs) := by
  rcases Int.lt_or_le v 0 with h | h
  · rw [rnd14_of_neg h]
    omega
  · rw [rnd14_of_nonneg h]
    omega

theorem rnd14_neg (v : Int) : rnd14 (-v) = -rnd14 v := by
  rcases lt_trichotomy v 0 with h | rfl | h
  · rw [rnd14_of_neg h, rnd14_of_nonneg (by omega), neg_neg]
  · rfl
  · rw [rnd14_of_nonneg h.le, rnd14_of_neg (by omega), neg_neg]

/-- Settles O32: both signs of the product. -/
theorem rnd14RoundsHalfAwayFromZero : Obligations.Rnd14RoundsHalfAwayFromZero :=
  ⟨fun _ => rfl, fun _ => rnd14_of_nonneg, fun _ => rnd14_of_neg, rnd14_neg, fun v => (rnd14_nearest v).1,
    fun v => (rnd14_nearest v).2, rfl, rfl, rfl⟩

/-! ### The sine table -/

/-- SINQ at the four angles of one base angle (R180). -/
theorem sinq_quadrants : ∀ k ≤ 90,
    sinq k = sineAt k ∧ sinq (180 - k) = sineAt k ∧ sinq (180 + k) = -sineAt k ∧ sinq (360 - k) = -sineAt k := by decide

theorem sineAt_bounds : ∀ k ≤ 90, 0 ≤ sineAt k ∧ sineAt k ≤ 16384 := by decide

theorem sineAt_rises : ∀ k < 90, sineAt k < sineAt (k + 1) := by decide

/-- Every angle is, but for whole turns, one of the four of a base angle. -/
theorem exists_base_angle (θ : Nat) :
    ∃ k ≤ 90, θ % 360 = k ∨ θ % 360 = 180 - k ∨ θ % 360 = 180 + k ∨ θ % 360 = 360 - k := by
  by_cases h1 : θ % 360 ≤ 90
  · exact ⟨θ % 360, by omega⟩
  by_cases h2 : θ % 360 ≤ 180
  · exact ⟨180 - θ % 360, by omega⟩
  by_cases h3 : θ % 360 ≤ 270
  · exact ⟨θ % 360 - 180, by omega⟩
  · exact ⟨360 - θ % 360, by omega⟩

theorem sinq_add_period (θ : Nat) : sinq (θ + 360) = sinq θ := by simp only [sinq, Nat.add_mod_right]

theorem sinq_mod_add (θ k : Nat) : sinq (θ % 360 + k) = sinq (θ + k) := by simp only [sinq, Nat.mod_add_mod]

theorem sinq_mod (θ : Nat) : sinq (θ % 360) = sinq θ := sinq_mod_add θ 0

theorem cosq_mod (θ : Nat) : cosq (θ % 360) = cosq θ := sinq_mod_add θ 90

theorem sinq_natAbs_le (θ : Nat) : (sinq θ).natAbs ≤ 16384 := by
  obtain ⟨k, hk, h⟩ := exists_base_angle θ
  obtain ⟨hfirst, hsecond, hthird, hfourth⟩ := sinq_quadrants k hk
  have := sineAt_bounds k hk
  rw [← sinq_mod]
  rcases h with h | h | h | h <;> rw [h] <;> omega

theorem sinq_add_half_turn (θ : Nat) : sinq (θ + 180) = -sinq θ := by
  obtain ⟨k, hk, h⟩ := exists_base_angle θ
  obtain ⟨hfirst, hsecond, hthird, hfourth⟩ := sinq_quadrants k hk
  rw [← sinq_mod_add, ← sinq_mod θ]
  rcases h with h | h | h | h <;> rw [h]
  · rw [Nat.add_comm, hthird, hfirst]
  · rw [show 180 - k + 180 = 360 - k by omega, hfourth, hsecond]
  · rw [show 180 + k + 180 = k + 360 by omega, sinq_add_period, hfirst, hthird, neg_neg]
  · rw [show 360 - k + 180 = 180 - k + 360 by omega, sinq_add_period, hsecond, hfourth, neg_neg]

theorem sinq_mirror {θ : Nat} (h : θ ≤ 180) : sinq (180 - θ) = sinq θ := by
  rcases Nat.le_total θ 90 with hk | hk
  · obtain ⟨hfirst, hsecond, -⟩ := sinq_quadrants θ hk
    rw [hfirst, hsecond]
  · obtain ⟨hfirst, hsecond, -⟩ := sinq_quadrants (180 - θ) (by omega)
    rw [hfirst, ← hsecond, Nat.sub_sub_self h]

theorem sinq_rises {θ : Nat} (h : θ < 90) : sinq θ < sinq (θ + 1) := by
  rw [(sinq_quadrants θ h.le).1, (sinq_quadrants (θ + 1) h).1]
  exact sineAt_rises θ h

/-- Settles O33: SINQ is the base table over four quadrants. -/
theorem sineTableSymmetries : Obligations.SineTableSymmetries :=
  ⟨rfl, sinq_natAbs_le, sinq_add_period, sinq_add_half_turn, fun _ => sinq_mirror, fun _ => sinq_rises⟩

/-! ### The angles of an arc -/

theorem arcAngles_getElem? {step sweep k : Nat} (hstep : 1 ≤ step) (hk : k * step ≤ sweep) (start : Nat) :
    (arcAngles step start sweep)[k]? = some (start + k * step) := by
  have hlt : k < sweep / step + 1 := Nat.lt_succ_of_le ((Nat.le_div_iff_mul_le hstep).mpr hk)
  rw [arcAngles, List.getElem?_append_left (by simpa using hlt), List.getElem?_map, List.getElem?_range hlt,
    Option.map_some]

/-- The walk ends at start + sweep, with an angle of its own where the step does not divide the sweep (R182). -/
theorem arcAngles_getLast? (step start sweep : Nat) : (arcAngles step start sweep).getLast? = some (start + sweep) := by
  unfold arcAngles
  split
  · rw [List.getLast?_append, List.getLast?_singleton, Option.some_or]
  · next h =>
    rw [List.append_nil, List.getLast?_map, List.getLast?_range, if_neg (Nat.succ_ne_zero _), Option.map_some,
      Nat.add_sub_cancel, Nat.div_mul_cancel (Nat.dvd_of_mod_eq_zero (not_not.mp h))]

theorem mem_arcAngles {step start sweep θ : Nat} (hstep : 1 ≤ step) :
    θ ∈ arcAngles step start sweep ↔ ∃ k ≤ sweep, (k % step = 0 ∨ k = sweep) ∧ start + k = θ := by
  constructor
  · intro h
    rcases List.mem_append.mp h with h | h
    · obtain ⟨k, hk, rfl⟩ := List.mem_map.mp h
      rw [List.mem_range, Nat.lt_succ_iff, Nat.le_div_iff_mul_le hstep] at hk
      exact ⟨k * step, hk, .inl (Nat.mul_mod_left k step), rfl⟩
    · split at h
      · exact ⟨sweep, le_rfl, .inr rfl, (List.mem_singleton.mp h).symm⟩
      · cases h
  · rintro ⟨k, hk, hdvd | rfl, rfl⟩
    · have hmul : k / step * step = k := Nat.div_mul_cancel (Nat.dvd_of_mod_eq_zero hdvd)
      rw [← hmul] at hk ⊢
      exact List.mem_of_getElem? (arcAngles_getElem? hstep hk start)
    · exact List.mem_of_getLast? (arcAngles_getLast? step start k)

/-- Settles O34: the entries by position, the end last. -/
theorem arcAnglesVisitBothEnds : Obligations.ArcAnglesVisitBothEnds := by
  refine fun step start sweep hstep => ⟨?_, fun k hk => arcAngles_getElem? hstep hk start, ?_,
    arcAngles_getLast? step start sweep, sinq_mod⟩
  · simp only [arcAngles, List.length_append, List.length_map, List.length_range]
    split <;> rfl
  · simpa [List.head?_eq_getElem?] using arcAngles_getElem? hstep (k := 0) (by omega) start

/-! ### The points of an arc -/

theorem mem_arcPts {step start sweep r : Nat} {cx cy : Int} {p : Point} (hstep : 1 ≤ step) :
    p ∈ arcPts step cx cy r start sweep ↔
      ∃ k ≤ sweep, (k % step = 0 ∨ k = sweep) ∧ arcPoint cx cy r (start + k) = p := by
  simp only [arcPts, List.mem_map, mem_arcAngles hstep]
  exact ⟨fun ⟨_, ⟨k, hk, hv, rfl⟩, hp⟩ => ⟨k, hk, hv, hp⟩, fun ⟨k, hk, hv, hp⟩ => ⟨_, ⟨k, hk, hv, rfl⟩, hp⟩⟩

theorem arcStep_pos (s : State) : 1 ≤ s.cfg.arcStep := by
  obtain ⟨-, -, -, -, -, -, h, -⟩ := config_legal s.cfg
  exact h

theorem arcPoint_mod (cx cy : Int) (r θ : Nat) : arcPoint cx cy r (θ % 360) = arcPoint cx cy r θ := by
  simp only [arcPoint, cosq_mod, sinq_mod]

/-- Settles O35: ARC paints the points at the angles it visits. -/
theorem arcPaintsItsAngles : Obligations.ArcPaintsItsAngles := by
  refine fun c cx cy r start sweep s => drawsExactly_of_paint rfl fun x y => ?_
  simp only [mem_arcPts (arcStep_pos s), eq_comm (b := px x y), arcPoint]

/-- With a step of one degree, the angles from 359 on are visited already (R184). -/
theorem mem_arcPts_fullTurn {cx cy : Int} {r start sweep : Nat} {p : Point} (h : 359 ≤ sweep) :
    p ∈ arcPts 1 cx cy r start sweep ↔ p ∈ arcPts 1 cx cy r start 359 := by
  simp only [mem_arcPts le_rfl, Nat.mod_one, true_or, true_and]
  constructor
  · rintro ⟨k, -, rfl⟩
    refine ⟨k % 360, by omega, ?_⟩
    rw [← arcPoint_mod, Nat.add_mod_mod, arcPoint_mod]
  · exact fun ⟨k, hk, hp⟩ => ⟨k, hk.trans h, hp⟩

/-- Settles O36: the two sweeps visit the same points. -/
theorem arcPastAFullTurnAddsNothing : Obligations.ArcPastAFullTurnAddsNothing := by
  intro c cx cy r start sweep s t u hstep hsweep ht hu
  obtain rfl := Host.Outcome.next.inj ht
  obtain rfl := Host.Outcome.next.inj hu
  refine (painted_paint s _ c).sameFb (painted_paint s _ c) (fun x y => ?_) rfl rfl
  rw [hstep]
  exact mem_arcPts_fullTurn hsweep

/-- Settles O37: the arc's points and the line's. -/
theorem arcWithRadiusLinePaintsBoth : Obligations.ArcWithRadiusLinePaintsBoth := by
  refine fun c cx cy r start sweep s => drawsExactly_of_paint rfl fun x y => ?_
  simp only [arcRLPts, List.mem_append, mem_arcPts (arcStep_pos s), eq_comm (b := px x y)]

end Sys2Proof.Machine
end

section
namespace Sys2Proof.Machine

/-! ## Polylines, bitmaps and what every shape has in common -/

/-! ### Polylines -/

theorem mem_polylinePts {vs : List Vertex} {p : Point} :
    p ∈ polylinePts vs ↔ ∃ (before : List Vertex) (v w : Vertex) (after : List Vertex),
      vs = before ++ v :: w :: after ∧ p ∈ linePts (coord v.x) (coord v.y) (coord w.x) (coord w.y) := by
  induction vs with
  | nil => simp [polylinePts]
  | cons u vs ih =>
    cases vs with
    | nil => simp [polylinePts, List.singleton_eq_append_iff]
    | cons u' vs =>
      rw [polylinePts, List.mem_append, ih]
      constructor
      · rintro (h | ⟨before, v, w, after, he, h⟩)
        · exact ⟨[], u, u', vs, rfl, h⟩
        · exact ⟨u :: before, v, w, after, congrArg (u :: ·) he, h⟩
      · rintro ⟨before, v, w, after, he, h⟩
        cases before with
        | nil =>
          cases he
          exact .inl h
        | cons b before =>
          exact .inr ⟨before, v, w, after, List.tail_eq_of_cons_eq he, h⟩

/-- Settles O38: the lines between consecutive vertices. -/
theorem polylinePaintsConsecutiveLines : Obligations.PolylinePaintsConsecutiveLines :=
  fun _ _ _ => drawsExactly_of_paint rfl fun _ _ => mem_polylinePts

/-! ### Bitmaps -/

theorem mem_bitmapPoints {x y : Int} {w h : Nat} {b : List Byte} {p : Point} :
    p ∈ bitmapPoints x y w h b ↔ ∃ i j, i < w ∧ j < h ∧ bmpBit b w i j = true ∧ p = (x + i, y + j) := by
  simp only [bitmapPoints, List.bind_eq_flatMap, List.pure_def, List.mem_flatMap, List.mem_map, List.mem_filter,
    List.mem_range, List.mem_singleton]
  exact ⟨fun ⟨j, hj, _, ⟨i, ⟨hi, hb⟩, rfl⟩, hp⟩ => ⟨i, j, hi, hj, hb, hp.symm⟩,
    fun ⟨i, j, hi, hj, hb, hp⟩ => ⟨j, hj, _, ⟨i, ⟨hi, hb⟩, rfl⟩, hp.symm⟩⟩

/-- A bit of a bitmap is 1 exactly when its byte is there and has the bit: past the last byte every bit is 0 (R192). -/
theorem bmpBit_iff {b : List Byte} {w i j : Nat} :
    bmpBit b w i j = true ↔ ∃ v, b[j * divUp w 8 + i / 8]? = some v ∧ v.getLsbD (7 - i % 8) = true := by
  rw [bmpBit, List.getD_eq_getElem?_getD]
  cases b[j * divUp w 8 + i / 8]? <;> simp

/-- Settles O39: the set bits, each at its pixel. -/
theorem bitmapPaintsSetBits : Obligations.BitmapPaintsSetBits := by
  refine fun c x0 y0 w h bytes s => drawsExactly_of_paint rfl fun x y => ?_
  rw [mem_bitmapPoints]
  refine exists₂_congr fun i j => and_congr_right fun _ => and_congr_right fun _ => ?_
  rw [bmpBit_iff, and_comm, ← and_assoc]
  refine and_congr ?_ Iff.rfl
  simp only [px, coord, Prod.mk.injEq]
  omega

theorem bitmapPoints_of_zero {b : List Byte} (hb : ∀ v ∈ b, v = 0) (x y : Int) (w h : Nat) :
    bitmapPoints x y w h b = [] := by
  refine List.eq_nil_iff_forall_not_mem.mpr fun p hp => ?_
  obtain ⟨i, j, -, -, hbit, -⟩ := mem_bitmapPoints.mp hp
  obtain ⟨v, hv, hset⟩ := bmpBit_iff.mp hbit
  rw [hb v (List.mem_of_getElem? hv)] at hset
  simp at hset

/-- Settles O40: a source of zeros has no set bit, so nothing is painted. -/
theorem zeroBitmapLeavesFb : Obligations.ZeroBitmapLeavesFb := by
  refine fun c x y w h bytes s hb => ⟨_, rfl, completed_complete rfl rfl .ok 0, ?_⟩
  rw [bitmapPoints_of_zero hb]
  exact .refl s

/-! ### Bounds -/

/-- A point no shape of u16 operands goes beyond (R161). -/
def ShapeBounds (p : Point) : Prop := -65535 ≤ p.1 ∧ p.1 ≤ 131070 ∧ -65535 ≤ p.2 ∧ p.2 ≤ 131070

theorem coord_bounds (v : Half) : 0 ≤ coord v ∧ coord v ≤ 65535 := by
  have := v.isLt
  unfold coord
  omega

theorem shapeBounds_of_near {x y : Half} {r : Nat} (hr : r ≤ 65535) {p : Point} (hx : (p.1 - coord x).natAbs ≤ r)
    (hy : (p.2 - coord y).natAbs ≤ r) : ShapeBounds p := by
  have := coord_bounds x
  have := coord_bounds y
  unfold ShapeBounds
  omega

theorem shapeBounds_of_between {x0 y0 x1 y1 : Int} {p : Point} (h0 : ShapeBounds (x0, y0)) (h1 : ShapeBounds (x1, y1))
    (hx : min x0 x1 ≤ p.1 ∧ p.1 ≤ max x0 x1) (hy : min y0 y1 ≤ p.2 ∧ p.2 ≤ max y0 y1) : ShapeBounds p := by
  simp only [ShapeBounds] at *
  omega

theorem shapeBounds_coord (x y : Half) : ShapeBounds (coord x, coord y) :=
  shapeBounds_of_near (x := x) (y := y) (r := 0) (by decide) (by simp) (by simp)

theorem shapeBounds_line {x0 y0 x1 y1 : Int} {p : Point} (h0 : ShapeBounds (x0, y0)) (h1 : ShapeBounds (x1, y1))
    (h : p ∈ linePts x0 y0 x1 y1) : ShapeBounds p :=
  shapeBounds_of_between h0 h1 (linePts_between h).1 (linePts_between h).2

theorem rnd14_natAbs_le {v : Int} {r : Nat} (h : v.natAbs ≤ r * 16384) : (rnd14 v).natAbs ≤ r := by
  rcases Int.lt_or_le v 0 with hv | hv
  · rw [rnd14_of_neg hv]
    omega
  · rw [rnd14_of_nonneg hv]
    omega

/-- An arc's points are no further from its centre than the radius, along either axis (R183). -/
theorem arcPoint_near (cx cy : Int) (r θ : Nat) :
    ((arcPoint cx cy r θ).1 - cx).natAbs ≤ r ∧ ((arcPoint cx cy r θ).2 - cy).natAbs ≤ r := by
  have hsin (φ : Nat) : (rnd14 (r * sinq φ)).natAbs ≤ r := by
    refine rnd14_natAbs_le ?_
    rw [Int.natAbs_mul, Int.natAbs_natCast]
    exact Nat.mul_le_mul_left r (sinq_natAbs_le φ)
  simp only [arcPoint, add_sub_cancel_left]
  exact ⟨hsin _, hsin _⟩

theorem fillCirclePts_near {cx cy : Int} {r : Nat} {p : Point} (h : p ∈ fillCirclePts cx cy r) :
    (p.1 - cx).natAbs ≤ r ∧ (p.2 - cy).natAbs ≤ r := by
  obtain ⟨q, hq, hp⟩ := mem_fillCirclePts.mp h
  have := circleSteps_bounds hq
  omega

/-- Settles O41: a shape's points lie between its corners, or no further from its centre than the radius. -/
theorem shapeCoordinatesAreBounded : Obligations.ShapeCoordinatesAreBounded := by
  intro a b d e f step vs bytes p hstep h
  change ShapeBounds p
  have hd : d.toNat ≤ 65535 := Nat.le_of_lt_succ d.isLt
  have hcorners {p : Point} := shapeBounds_of_between (p := p) (shapeBounds_coord a b) (shapeBounds_coord d e)
  have hcentred (θ : Nat) : ShapeBounds (arcPoint (coord a) (coord b) d.toNat θ) :=
    shapeBounds_of_near hd (arcPoint_near _ _ _ θ).1 (arcPoint_near _ _ _ θ).2
  rcases h with h | h | h | h | h | h | h | h
  · exact shapeBounds_line (shapeBounds_coord a b) (shapeBounds_coord d e) h
  · have := mem_rectPts.mp h
    exact hcorners (by omega) (by omega)
  · obtain ⟨hx, hx', hy⟩ := mem_fillRectPts.mp h
    exact hcorners ⟨hx, hx'⟩ hy
  · obtain ⟨hx, hy⟩ := fillCirclePts_near (circlePts_subset_fillCirclePts _ _ _ h)
    exact shapeBounds_of_near hd hx hy
  · obtain ⟨hx, hy⟩ := fillCirclePts_near h
    exact shapeBounds_of_near hd hx hy
  · rcases List.mem_append.mp h with h | h
    · obtain ⟨k, -, -, rfl⟩ := (mem_arcPts hstep).mp h
      exact hcentred _
    · exact shapeBounds_line (shapeBounds_coord a b) (hcentred _) h
  · obtain ⟨-, v, w, -, -, h⟩ := mem_polylinePts.mp h
    exact shapeBounds_line (shapeBounds_coord v.x v.y) (shapeBounds_coord w.x w.y) h
  · obtain ⟨i, j, hi, hj, -, rfl⟩ := mem_bitmapPoints.mp h
    have he := e.isLt
    exact shapeBounds_of_near (x := a) (y := b) le_rfl (by simp only [add_sub_cancel_left]; omega)
      (by simp only [add_sub_cancel_left]; omega)

/-! ### Drawing and the controller -/

/-- Settles O45: a drawing operation looks at the canvas alone, and both states show the same one. -/
theorem drawingIgnoresTheController : Obligations.DrawingIgnoresTheController := by
  intro i s t cs line answers log pauses hi ht
  obtain ⟨fb, x, y, st, v, -, -, hall⟩ := exec_drawing hi s
  obtain rfl := next_unique (hall s (.refl s)) ht
  exact hall _ ⟨rfl, rfl, rfl, rfl⟩

end Sys2Proof.Machine
end

section
namespace Sys2Proof.Machine

/-! ## Text

What a run of characters that fits leaves, in closed form: FB is painted once with the pixels of all its glyphs, the cursor is
moved once by its width. Every statement about WRITECHAR and WRITESTRING then speaks of one state, whose frame is seen at once. -/

theorem textWidth_cons (cfg : Config) (font ch : Byte) (chars : List Byte) :
    textWidth cfg font (ch :: chars) = (glyphFor cfg font ch).gw.toNat + textWidth cfg font chars :=
  List.sum_cons

/-! ### The pixels of a run of characters -/

/-- The pixels of one glyph at (x, y) (R202). -/
def glyphPoints (cfg : Config) (font ch : Byte) (x y : Nat) : List Point :=
  bitmapPoints x y (glyphFor cfg font ch).gw.toNat (glyphFor cfg font ch).gh.toNat (glyphFor cfg font ch).gb

/-- The pixels of a run of characters from (x, y) on: each glyph where the ones before it end (R205). -/
def textPoints (cfg : Config) (font : Byte) (y : Nat) : List Byte → Nat → List Point
  | [], _ => []
  | ch :: chars, x =>
    glyphPoints cfg font ch x y ++ textPoints cfg font y chars (x + (glyphFor cfg font ch).gw.toNat)

theorem px_mem_glyphPoints {cfg : Config} {font ch : Byte} {x0 y0 x y : Nat} :
    px x y ∈ glyphPoints cfg font ch x0 y0 ↔
      ∃ i j, i < (glyphFor cfg font ch).gw.toNat ∧ j < (glyphFor cfg font ch).gh.toNat
        ∧ bmpBit (glyphFor cfg font ch).gb (glyphFor cfg font ch).gw.toNat i j = true ∧ x = x0 + i ∧ y = y0 + j := by
  rw [glyphPoints, mem_bitmapPoints]
  refine exists₂_congr fun i j => and_congr_right fun _ => and_congr_right fun _ => and_congr_right fun _ => ?_
  rw [px, Prod.mk.injEq]
  omega

theorem mem_textPoints {cfg : Config} {font : Byte} {y : Nat} {chars : List Byte} {x : Nat} {p : Point} :
    p ∈ textPoints cfg font y chars x ↔ ∃ before ch after,
      chars = before ++ ch :: after ∧ p ∈ glyphPoints cfg font ch (x + textWidth cfg font before) y := by
  induction chars generalizing x with
  | nil => simp [textPoints]
  | cons d chars ih =>
    rw [textPoints, List.mem_append, ih]
    constructor
    · rintro (h | ⟨before, ch, after, he, h⟩)
      · exact ⟨[], d, chars, rfl, h⟩
      · refine ⟨d :: before, ch, after, congrArg (d :: ·) he, ?_⟩
        rwa [textWidth_cons, ← Nat.add_assoc]
    · rintro ⟨before, ch, after, he, h⟩
      cases before with
      | nil =>
        cases he
        exact .inl h
      | cons b before =>
        obtain ⟨rfl, hchars⟩ := List.cons_eq_cons.mp he
        rw [textWidth_cons, ← Nat.add_assoc] at h
        exact .inr ⟨before, ch, after, hchars, h⟩

/-! ### The state after a run of characters that fits -/

/-- No character of the run is rejected: the last glyph ends within the W columns, or there is none (R202, R205). -/
def TextFits (font : Byte) (chars : List Byte) (s : State) : Prop :=
  chars = [] ∨ s.cursorX.toNat + textWidth s.cfg font chars ≤ s.cfg.w

/-- FB painted with the run at the cursor, and the cursor after it. -/
def drawText (c : Colour) (font : Byte) (chars : List Byte) (s : State) : State :=
  { paint s (textPoints s.cfg font s.cursorY.toNat chars s.cursorX.toNat) c with
    cursorX := BitVec.ofNat 16 (s.cursorX.toNat + textWidth s.cfg font chars) }

theorem drawText_nil (c : Colour) (font : Byte) (s : State) : drawText c font [] s = s := by
  have h : BitVec.ofNat 16 (s.cursorX.toNat + textWidth s.cfg font []) = s.cursorX :=
    BitVec.eq_of_toNat_eq (Nat.mod_eq_of_lt s.cursorX.isLt)
  rw [drawText, h]
  rfl

theorem drawText_cursorX {font : Byte} {chars : List Byte} {s : State} (h : TextFits font chars s) (c : Colour) :
    (drawText c font chars s).cursorX.toNat = s.cursorX.toNat + textWidth s.cfg font chars := by
  rcases h with rfl | h
  · rw [drawText_nil]
    rfl
  · exact cursor_advance s.cfg _ _ h

theorem painted_drawText (c : Colour) (font : Byte) (chars : List Byte) (s : State) :
    Painted s (drawText c font chars s) c
      (fun x y => px x y ∈ textPoints s.cfg font s.cursorY.toNat chars s.cursorX.toNat) :=
  painted_paint s _ c

section
variable {font ch : Byte} {s : State} (h : s.cursorX.toNat + (glyphFor s.cfg font ch).gw.toNat ≤ s.cfg.w)
include h

theorem textFits_singleton : TextFits font [ch] s := .inr h

/-- The characters after one that fits are drawn from where it ends. -/
theorem drawText_cons (c : Colour) (chars : List Byte) :
    drawText c font (ch :: chars) s = drawText c font chars (drawText c font [ch] s) := by
  have hx : (drawText c font [ch] s).cursorX.toNat = s.cursorX.toNat + (glyphFor s.cfg font ch).gw.toNat :=
    drawText_cursorX (textFits_singleton h) c
  rw [drawText, drawText.eq_def c font chars, hx, textWidth_cons, ← Nat.add_assoc]
  simp [drawText, textPoints, paint, List.foldl_append]

theorem putGlyph_of_fits (c : Colour) : putGlyph c font ch s = some (drawText c font [ch] s) := by
  obtain ⟨hlt, -⟩ | ⟨-, hput⟩ := putGlyph_cases c font ch s
  · exact absurd h (Nat.not_le.mpr hlt)
  · rw [hput, drawText, textPoints, textPoints, List.append_nil]
    rfl

theorem writeChars_cons_of_fits (c : Colour) (chars : List Byte) :
    writeChars c font (ch :: chars) s = writeChars c font chars (drawText c font [ch] s) := by
  rw [writeChars, putGlyph_of_fits h]

/-- WRITECHAR of a glyph that fits completes OK after it is drawn (R203). -/
theorem exec_writeChar_of_fits (c : Colour) :
    exec (.writeChar c font ch) s = .next (complete (drawText c font [ch] s) .ok 0) :=
  (execWriteChar_eq c font ch s).trans (congrArg _ (writeChars_cons_of_fits h c []))

end

/-- WRITESTRING stops at a glyph that would pass column W (R205). -/
theorem writeChars_cons_of_misfit {font ch : Byte} {s : State}
    (h : s.cfg.w < s.cursorX.toNat + (glyphFor s.cfg font ch).gw.toNat) (c : Colour) (chars : List Byte) :
    writeChars c font (ch :: chars) s = complete s .glyphOverflow ch := by
  obtain ⟨-, hput⟩ | ⟨hle, -⟩ := putGlyph_cases c font ch s
  · rw [writeChars, hput]
  · exact absurd h (Nat.not_lt.mpr hle)

theorem exec_writeChar_of_misfit {font ch : Byte} {s : State}
    (h : s.cfg.w < s.cursorX.toNat + (glyphFor s.cfg font ch).gw.toNat) (c : Colour) :
    exec (.writeChar c font ch) s = .next (complete s .glyphOverflow ch) :=
  (execWriteChar_eq c font ch s).trans (congrArg _ (writeChars_cons_of_misfit h c []))

/-- A run that fits is a glyph that fits, then a run that fits where it ends. -/
theorem TextFits.of_cons {font ch : Byte} {chars : List Byte} {s : State} (h : TextFits font (ch :: chars) s) :
    s.cursorX.toNat + (glyphFor s.cfg font ch).gw.toNat ≤ s.cfg.w
      ∧ ∀ c, TextFits font chars (drawText c font [ch] s) := by
  have hw : s.cursorX.toNat + textWidth s.cfg font (ch :: chars) ≤ s.cfg.w := h.resolve_left (List.cons_ne_nil _ _)
  rw [textWidth_cons, ← Nat.add_assoc] at hw
  have hch := (Nat.le_add_right _ _).trans hw
  exact ⟨hch, fun c => .inr ((congrArg (· + _) (drawText_cursorX (textFits_singleton hch) c)).trans_le hw)⟩

/-- WRITESTRING goes on after a run that fits from the state the run leaves (R205). -/
theorem writeChars_append {font : Byte} {chars : List Byte} {s : State} (h : TextFits font chars s) (c : Colour)
    (rest : List Byte) : writeChars c font (chars ++ rest) s = writeChars c font rest (drawText c font chars s) := by
  induction chars generalizing s with
  | nil => rw [drawText_nil, List.nil_append]
  | cons ch chars ih =>
    obtain ⟨hch, hchars⟩ := h.of_cons
    rw [List.cons_append, writeChars_cons_of_fits hch, ih (hchars c), ← drawText_cons hch]

/-- WRITECHAR on each character of a run that fits leaves the run's FB and cursor: only the completions differ, and no glyph
depends on them (R206). -/
theorem afterChars_canvas {font : Byte} {chars : List Byte} {s : State} (h : TextFits font chars s) (c : Colour) :
    SameCanvas (drawText c font chars s) (afterChars c font chars s) := by
  induction chars generalizing s with
  | nil =>
    rw [drawText_nil]
    exact .refl s
  | cons ch chars ih =>
    obtain ⟨hch, hchars⟩ := h.of_cons
    rw [drawText_cons hch, afterChars, exec_writeChar_of_fits hch]
    exact ih (s := complete (drawText c font [ch] s) .ok 0) (hchars c)

/-! ### WRITECHAR and WRITESTRING -/

/-- Settles O42: the glyph is drawn, or the completion is the only effect. -/
theorem writeCharWritesOrRejects : Obligations.WriteCharWritesOrRejects := by
  intro c font ch s g
  by_cases h : s.cfg.w < s.cursorX.toNat + (glyphFor s.cfg font ch).gw.toNat
  · exact ⟨_, exec_writeChar_of_misfit h c, .refl s, .refl s, rfl,
      fun _ => ⟨completed_complete rfl rfl _ _, .refl s, rfl⟩, fun hle => absurd h (Nat.not_lt.mpr hle)⟩
  · have hle := Nat.le_of_not_lt h
    refine ⟨_, exec_writeChar_of_fits hle c, .refl s, .refl s, rfl, fun hlt => absurd hlt h,
      fun _ => ⟨completed_complete rfl rfl _ _, drawText_cursorX (textFits_singleton hle) c, ?_⟩⟩
    have hpainted := painted_drawText c font [ch] s
    simp only [textPoints, List.append_nil, px_mem_glyphPoints] at hpainted
    exact hpainted

/-- Settles O43: a string that fits is its run, drawn. -/
theorem writeStringWritesWhatFits : Obligations.WriteStringWritesWhatFits := by
  intro c font chars s h
  have hrun : writeChars c font chars s = complete (drawText c font chars s) .ok 0 := by
    rw [← List.append_nil chars, writeChars_append h, List.append_nil, writeChars]
  refine ⟨_, congrArg Host.Outcome.next hrun, completed_complete rfl rfl _ _, drawText_cursorX h c, rfl, .refl s, .refl s, ?_⟩
  have hpainted := painted_drawText c font chars s
  simp only [mem_textPoints, px_mem_glyphPoints] at hpainted
  exact hpainted

/-- Settles O44: the characters before the misfit are a run that fits, and the misfit stops the string after it. -/
theorem writeStringStopsAtFirstMisfit : Obligations.WriteStringStopsAtFirstMisfit := by
  intro c font pre ch post s hpre hch
  have hmisfit : s.cfg.w < (drawText c font pre s).cursorX.toNat + (glyphFor s.cfg font ch).gw.toNat := by
    rwa [drawText_cursorX hpre]
  have hstop : writeChars c font (pre ++ ch :: post) s = complete (drawText c font pre s) .glyphOverflow ch :=
    (writeChars_append hpre c _).trans (writeChars_cons_of_misfit hmisfit c post)
  obtain ⟨-, hfb, hx, hy⟩ := afterChars_canvas hpre c
  exact ⟨_, congrArg Host.Outcome.next hstop, completed_complete rfl rfl _ _,
    fun a => congrArg (Memory.read · a) hfb.symm, ⟨hx.symm, hy.symm⟩, .refl s, .refl s⟩

end Sys2Proof.Machine
end

section
namespace Sys2Proof.Machine

/-! ## Controller descriptors that complete -/

/-! ### A run of answered requests -/

/-- Requests answered OK are sent in order and the rest runs (R52, R221). -/
theorem runProg_requests_ok (f : Option CtrlState) (rs : List TxRequest) (hrs : ∀ r ∈ rs, hasAnswer r = true)
    (rest : List Micro) (s : State) (as : List TxAnswer) (hs : s.txAnswers = okAnswers rs.length ++ as) :
    runProg f (rs.map .tx ++ rest) s = runProg f rest { s with txAnswers := as, txLog := s.txLog ++ rs } := by
  induction rs generalizing s with
  | nil =>
    obtain rfl : s.txAnswers = as := hs
    simp
  | cons r rs ih =>
    obtain ⟨hr, hrs⟩ := List.forall_mem_cons.mp hrs
    have hsent := runProg_answered hr f (rs.map .tx ++ rest) (as := okAnswers rs.length ++ as) hs
    have hrest := ih hrs { issue s r with txAnswers := okAnswers rs.length ++ as } rfl
    exact (hsent.trans hrest).trans (by simp [issue, lineAfter_answered hr])

/-- The first BUS_ERROR ends the descriptor: that request was sent and no later one (R221, R272). -/
theorem runProg_requests_fail (f : Option CtrlState) (rs : List TxRequest) (hrs : ∀ r ∈ rs, hasAnswer r = true)
    (rest : List Micro) (s : State) (as : List TxAnswer) (k : Nat) (hk : k < rs.length)
    (hs : s.txAnswers = okAnswers k ++ .busError :: as) :
    runProg f (rs.map .tx ++ rest) s
      = busFailure f { s with txAnswers := as, txLog := s.txLog ++ rs.take (k + 1) } := by
  have hlen : (rs.take k).length = k := List.length_take_of_le (Nat.le_of_lt hk)
  have hsplit : rs.map Micro.tx ++ rest
      = (rs.take k).map .tx ++ (.tx rs[k] :: ((rs.drop (k + 1)).map .tx ++ rest)) := by
    conv_lhs => rw [← List.take_append_drop k rs, List.drop_eq_getElem_cons hk]
    rw [List.map_append, List.append_assoc, List.map_cons, List.cons_append]
  have hr := hrs _ (List.getElem_mem hk)
  rw [hsplit, runProg_requests_ok f _ (fun r h => hrs r (List.mem_of_mem_take h)) _ s _ (hlen.symm ▸ hs),
    runProg_answered hr f _ rfl]
  simp [takeAnswer, issue, lineAfter_answered hr]

/-! ### The operations of R275 -/

/-- After the last request: SETDISPLAYON's own ctrlState, and OK (R241, R272). -/
theorem runProg_ctrlTail (f : Option CtrlState) (i : Instr) (s : State) :
    runProg f (ctrlTail i) s = complete { s with ctrlState := commandCtrl i s.ctrlState } .ok 0 := by
  cases i with
  | setDisplayOn on => cases on <;> rfl
  | _ => rfl

section
variable {i : Instr} {s : State} {rs : List TxRequest} (hrs : requestsOf s i = some rs) (hi : i ≠ .init)
  (hc : s.ctrlState ≠ .uninitialized)
include hrs hi hc

/-- Past its check, an operation of R275 runs its requests and its tail. -/
theorem exec_command : (∀ r ∈ rs, hasAnswer r = true)
    ∧ exec i s = .next (runProg none (rs.map .tx ++ ctrlTail i) s) := by
  obtain ⟨rs', hrs', ha, he⟩ := exec_needsInit (needsInit_of_requests hrs hi) s
  cases hrs.symm.trans hrs'
  exact ⟨ha, by rw [he, whenInitialized, if_neg hc]⟩

theorem exec_command_ok {as : List TxAnswer} (hs : s.txAnswers = okAnswers rs.length ++ as) :
    exec i s = .next (complete { s with
      ctrlState := commandCtrl i s.ctrlState, txAnswers := as, txLog := s.txLog ++ rs } .ok 0) := by
  obtain ⟨ha, he⟩ := exec_command hrs hi hc
  rw [he, runProg_requests_ok none rs ha _ s as hs, runProg_ctrlTail]

theorem exec_command_fail {as : List TxAnswer} {k : Nat} (hk : k < rs.length)
    (hs : s.txAnswers = okAnswers k ++ .busError :: as) :
    exec i s = .next (complete { s with txAnswers := as, txLog := s.txLog ++ rs.take (k + 1) } .busError 0) := by
  obtain ⟨ha, he⟩ := exec_command hrs hi hc
  rw [he, runProg_requests_fail none rs ha _ s as k hk hs]
  rfl

end

/-- Settles O48: FLUSH is the operation whose requests are those of FlushPages. -/
theorem flushTransmitsEveryPage : Obligations.FlushTransmitsEveryPage := fun s _ hc hs =>
  ⟨_, exec_command_ok rfl (by simp) hc hs, completed_complete rfl rfl .ok 0, rfl, rfl, rfl, rfl, rfl, .refl s, .refl s,
    .refl s⟩

/-- Settles O49: none of the requests before the failing one has changed anything. -/
theorem flushAbortsAtTheFirstBusError : Obligations.FlushAbortsAtTheFirstBusError := fun s _ _ hc hk hs =>
  ⟨_, exec_command_fail rfl (by simp) hc hk hs, completed_complete rfl rfl .busError 0, rfl, rfl, rfl, rfl, rfl,
    .refl s, .refl s, .refl s⟩

theorem length_cmds (bs : List Byte) : (cmds bs).length = bs.length := List.length_map ..

theorem take_cmds (bs : List Byte) (k : Nat) : (cmds bs).take k = cmds (bs.take k) := List.map_take.symm

/-- A single command or a scroll sends its command bytes, one TxCmd each (R221). -/
theorem requestsOf_of_commandBytes {i : Instr} {s : State} {bs : List Byte} (h : commandBytes s.cfg i = some bs) :
    requestsOf s i = some (cmds bs) ∧ i ≠ .init := by
  cases i with
  | init | flush => cases h
  | _ => exact ⟨congrArg (Option.map cmds) h, by simp⟩

/-- Settles O51: the requests are the command bytes, and the tail is the only write of ctrlState. -/
theorem commandsSendTheirBytes : Obligations.CommandsSendTheirBytes := by
  intro i s bs as h hc hs
  obtain ⟨hrs, hi⟩ := requestsOf_of_commandBytes h
  rw [← length_cmds] at hs
  exact ⟨_, exec_command_ok hrs hi hc hs, completed_complete rfl rfl .ok 0, rfl, rfl, rfl, rfl, rfl, .refl s, .refl s,
    .refl s⟩

/-- Settles O52: the tail, which alone writes ctrlState, does not run. -/
theorem commandsAbortAtTheFirstBusError : Obligations.CommandsAbortAtTheFirstBusError := by
  intro i s bs k as h hc hk hs
  obtain ⟨hrs, hi⟩ := requestsOf_of_commandBytes h
  rw [← length_cmds] at hk
  rw [← take_cmds]
  exact ⟨_, exec_command_fail hrs hi hc hk hs, completed_complete rfl rfl .busError 0, rfl, rfl, rfl, rfl, rfl, .refl s,
    .refl s, .refl s⟩

/-! ### INIT -/

theorem read_fillFb_zero (s : State) (a : Nat) : Memory.read (fillFb s 0).fb a = 0 := by simp [read_tabulate]

/-- INIT at the start of its final flush: every command byte was answered OK (R224). -/
def initFlushing (s : State) (as : List TxAnswer) : State :=
  fillFb { s with ctrlState := .initOn, txAnswers := as, txLog := s.txLog ++ cmds (initBytes s.cfg) } 0

theorem exec_init_flushing {s : State} {as : List TxAnswer}
    (hs : s.txAnswers = okAnswers (initBytes s.cfg).length ++ as) :
    exec .init s = .next (runProg (some .uninitialized) ((flushRequests s.cfg []).map .tx ++ []) (initFlushing s as)) :=
  congrArg Host.Outcome.next (runProg_initBytes_ok { s with ctrlState := .uninitialized } as hs)

/-- A BUS_ERROR in INIT_BYTES: Uninitialized, and FB not yet cleared (R224). -/
theorem exec_init_fail_bytes {s : State} {as : List TxAnswer} {k : Nat} (hk : k < (initBytes s.cfg).length)
    (hs : s.txAnswers = okAnswers k ++ .busError :: as) :
    exec .init s = .next (complete { s with
      ctrlState := .uninitialized, txAnswers := as
      txLog := s.txLog ++ (initRequests s.cfg).take (k + 1) } .busError 0) := by
  rw [← length_cmds] at hk
  have hfail := runProg_requests_fail (some .uninitialized) (cmds (initBytes s.cfg)) (fun _ => hasAnswer_cmds)
    (.setCtrl .initOn :: .clearFb :: ((flushRequests s.cfg []).map .tx ++ [])) { s with ctrlState := .uninitialized }
    as k hk hs
  rw [exec_init, initProg_eq, hfail, initRequests_eq, List.take_append_of_le_length hk]
  rfl

/-- A BUS_ERROR in the final flush: Uninitialized again, and FB cleared (R224). -/
theorem exec_init_fail_flush {s : State} {as : List TxAnswer} {j : Nat} (hj : j < (flushRequests s.cfg []).length)
    (hs : s.txAnswers = okAnswers ((initBytes s.cfg).length + j) ++ .busError :: as) :
    exec .init s = .next (complete { initFlushing s as with
      ctrlState := .uninitialized
      txLog := s.txLog ++ (initRequests s.cfg).take ((initBytes s.cfg).length + j + 1) } .busError 0) := by
  rw [okAnswers_add, List.append_assoc] at hs
  rw [exec_init_flushing hs, runProg_requests_fail _ _ (fun _ => hasAnswer_flushRequests) [] (initFlushing s _) as j hj rfl,
    initRequests_eq, Nat.add_assoc, ← length_cmds, List.take_length_add_append, ← List.append_assoc]
  rfl

/-- Settles O46: the flush of the cleared FB runs to its end in InitOn. -/
theorem initSucceeds : Obligations.InitSucceeds := by
  intro s as hs
  rw [initRequests_eq, List.length_append, length_cmds, okAnswers_add, List.append_assoc] at hs
  rw [exec_init_flushing hs,
    runProg_requests_ok _ _ (fun _ => hasAnswer_flushRequests) [] (initFlushing s _) as rfl, initRequests_eq,
    ← List.append_assoc]
  exact ⟨_, rfl, completed_complete rfl rfl .ok 0, rfl, read_fillFb_zero _, rfl, rfl, rfl, rfl, .refl s, .refl s⟩

/-- Settles O47: the failing request is one of INIT_BYTES, or one of the final flush. -/
theorem initAbortsAtTheFirstBusError : Obligations.InitAbortsAtTheFirstBusError := by
  intro s k as hk hs
  obtain hbytes | hflush := Nat.lt_or_ge k (initBytes s.cfg).length
  · exact ⟨_, exec_init_fail_bytes hbytes hs, completed_complete rfl rfl .busError 0, rfl, rfl, rfl, rfl, rfl,
      fun _ => .refl s, fun h => absurd hbytes (Nat.not_lt.mpr h), .refl s, .refl s⟩
  · obtain ⟨j, rfl⟩ := Nat.exists_eq_add_of_le hflush
    rw [initRequests_eq, List.length_append, length_cmds] at hk
    exact ⟨_, exec_init_fail_flush (Nat.lt_of_add_lt_add_left hk) hs, completed_complete rfl rfl .busError 0, rfl, rfl,
      rfl, rfl, rfl, fun h => absurd h (Nat.not_lt.mpr hflush), fun _ => read_fillFb_zero _, .refl s, .refl s⟩

end Sys2Proof.Machine
end

section
namespace Sys2Proof.Machine

/-! ## Status codes

Which code of R270 an instruction completes with, and what it leaves of the host side, for each of the four kinds of operation. -/

/-- The end of an instruction: the host side as before, and one completion with a status R270 lists for it, VALUE 0 unless
GLYPH_OVERFLOW, or a wait with nothing posted (R270, R272, R273). -/
def CompletesOrWaits (i : Instr) (s t : State) : Prop :=
  SameHost s t
    ∧ ((∃ st v, Completed s t st v ∧ mayRaise st i = true ∧ (st ≠ .glyphOverflow → v = 0)) ∨ Waiting s t)

theorem completesOrWaits_complete {i : Instr} {s t : State} {st : Status} {v : Byte} (hi : mayRaise st i = true)
    (hv : st ≠ .glyphOverflow → v = 0) (hs : SameHost s t) (hd : t.doneCount = s.doneCount) (he : t.err = s.err) :
    CompletesOrWaits i s (complete t st v) :=
  ⟨hs, .inl ⟨st, v, completed_complete hd he st v, hi, hv⟩⟩

/-! ### Drawing operations -/

/-- The loop of WRITESTRING completes OK, or GLYPH_OVERFLOW with the rejected character (R205). -/
theorem writeChars_completesOrWaits {i : Instr} (hi : mayRaise .glyphOverflow i = true) (c : Colour) (font : Byte)
    (chars : List Byte) (s : State) : CompletesOrWaits i s (writeChars c font chars s) := by
  induction chars generalizing s with
  | nil => exact completesOrWaits_complete rfl (fun _ => rfl) (.refl s) rfl rfl
  | cons ch rest ih =>
    rw [writeChars]
    obtain ⟨-, hput⟩ | ⟨-, hput⟩ := putGlyph_cases c font ch s <;> rw [hput]
    · exact completesOrWaits_complete hi (fun h => absurd rfl h) (.refl s) rfl rfl
    · exact ih _

theorem loadRaw_completesOrWaits (bytes : List Byte) (s : State) :
    ∃ t, exec (.loadRaw bytes) s = .next t ∧ CompletesOrWaits (.loadRaw bytes) s t := by
  by_cases h : bytes.length = s.cfg.fbSize
  · exact ⟨_, exec_loadRaw_exact h, completesOrWaits_complete rfl (fun _ => rfl) (.refl s) rfl rfl⟩
  · exact ⟨_, exec_loadRaw_mismatch h, completesOrWaits_complete rfl (fun _ => rfl) (.refl s) rfl rfl⟩

/-- Only LOADRAW and the text operations can fail: every other drawing operation completes OK, whatever it draws. -/
theorem drawing_completesOrWaits {i : Instr} (h : isDrawing i = true) (s : State) :
    ∃ t, exec i s = .next t ∧ CompletesOrWaits i s t := by
  cases i with
  | loadRaw bytes => exact loadRaw_completesOrWaits bytes s
  | writeChar c font ch => exact ⟨_, execWriteChar_eq c font ch s, writeChars_completesOrWaits rfl c font [ch] s⟩
  | writeString c font chars => exact ⟨_, rfl, writeChars_completesOrWaits rfl c font chars s⟩
  | setPixel | fill | setCursor | line | rect | fillRect | circle | fillCircle | arc | arcRL | polyline | bitmap =>
    exact ⟨_, rfl, completesOrWaits_complete rfl (fun _ => rfl) (.refl s) rfl rfl⟩
  | _ => cases h

/-! ### Controller operations -/

/-- A controller descriptor ends as R270 allows if its instruction may raise BUS_ERROR wherever it ends in one. -/
theorem runProg_completesOrWaits {i : Instr} (f : Option CtrlState) (p : List Micro) (s : State)
    (hi : Completed s (runProg f p s) .busError 0 → mayRaise .busError i = true) :
    CompletesOrWaits i s (runProg f p s) := by
  refine ⟨(runProg_frame f p s).1, ?_⟩
  obtain h | h | h := runProg_cases f p s
  · exact .inl ⟨.ok, 0, h, rfl, fun _ => rfl⟩
  · exact .inl ⟨.busError, 0, h, hi h, fun _ => rfl⟩
  · exact .inr h

/-- No request of RESET has an answer, so none can fail (R252). -/
theorem runProg_reset_no_busError (s : State) : ¬ Completed s (runProg none (resetProg s.cfg) s) .busError 0 := by
  rintro ⟨hidle, -, hcode, -⟩
  obtain ⟨hok, -⟩ := runProg_reset_ctrl s hidle
  exact absurd (hcode.symm.trans hok) (by decide)

theorem mayRaise_busError_of_needsInit {i : Instr} (h : needsInit i = true) : mayRaise .busError i = true := by
  cases i with
  | init => rfl
  | _ => exact h

/-- An operation of R275 is refused while Uninitialized, and sends no request. -/
theorem exec_needsInit_uninitialized {i : Instr} {s : State} (h : needsInit i = true)
    (hc : s.ctrlState = .uninitialized) : exec i s = .next (complete s .notInit 0) := by
  obtain ⟨rs, -, -, he⟩ := exec_needsInit h s
  rw [he, whenInitialized, if_pos hc, raise_eq_complete]

theorem needsInit_completesOrWaits {i : Instr} (h : needsInit i = true) (s : State) :
    ∃ t, exec i s = .next t ∧ CompletesOrWaits i s t := by
  by_cases hc : s.ctrlState = .uninitialized
  · exact ⟨_, exec_needsInit_uninitialized h hc,
      completesOrWaits_complete h (fun _ => rfl) (.refl s) rfl rfl⟩
  · obtain ⟨rs, -, -, he⟩ := exec_needsInit h s
    rw [whenInitialized, if_neg hc] at he
    exact ⟨_, he, runProg_completesOrWaits none _ s fun _ => mayRaise_busError_of_needsInit h⟩

/-- Settles O15, by kind of operation. -/
theorem everyInstructionCompletesOnceOrWaits : Obligations.EveryInstructionCompletesOnceOrWaits := by
  intro i s
  obtain h | rfl | rfl | h := instr_kinds i
  · exact drawing_completesOrWaits h s
  · exact ⟨_, exec_init s, runProg_completesOrWaits (some .uninitialized) (initProg s.cfg)
      { s with ctrlState := .uninitialized } fun _ => rfl⟩
  · exact ⟨_, exec_reset s, runProg_completesOrWaits none (resetProg s.cfg) s
      fun hfail => absurd hfail (runProg_reset_no_busError s)⟩
  · exact needsInit_completesOrWaits h s

/-- Settles O50: the completion is the only effect. -/
theorem uninitializedControllerRefusesCommands : Obligations.UninitializedControllerRefusesCommands := fun _ s hi hc =>
  ⟨_, exec_needsInit_uninitialized hi hc, completed_complete rfl rfl .notInit 0, .refl s, .refl s, .refl s, .refl s⟩

end Sys2Proof.Machine
end

section
namespace Sys2Proof.Machine

/-! ## Block reset and the text cursor -/

/-! ### Block reset -/

theorem step_blockReset {s : State} {ts : List Turn} (hs : s.schedule = .blockReset :: ts) :
    step s = .next (blockReset { s with schedule := ts }) := by simp [step, hs, takeTurn]

/-- No request is awaited after block reset, so the answer to one it abandoned is ignored (R300). -/
theorem answerTurn_blockReset (a : TxAnswer) (s : State) : answerTurn a (blockReset s) = blockReset s :=
  answerTurn_ignored (fun _ hw => by cases hw) a

/-- Settles O13: the step is `blockReset`, which holds no field of the block over but the configuration. -/
theorem blockResetPutsEveryFieldAtReset : Obligations.BlockResetPutsEveryFieldAtReset := fun _ _ hs =>
  ⟨_, step_blockReset hs, read_nil, rfl, rfl, rfl, rfl, rfl, rfl, rfl, rfl, rfl, rfl, rfl, rfl,
    fun a => answerTurn_blockReset a _⟩

/-! ### Instructions that leave the cursor -/

theorem drawing_keeps_cursor {i : Instr} (h : isDrawing i = true) (hc : setsCursor i = false) (s : State) :
    ∃ t, exec i s = .next t ∧ SameCursor s t := by
  cases i with
  | loadRaw bytes =>
    by_cases hl : bytes.length = s.cfg.fbSize
    · exact ⟨_, exec_loadRaw_exact hl, .refl s⟩
    · exact ⟨_, exec_loadRaw_mismatch hl, .refl s⟩
  | setPixel | fill | line | rect | fillRect | circle | fillCircle | arc | arcRL | polyline | bitmap =>
    exact ⟨_, rfl, .refl s⟩
  | setCursor | writeChar | writeString => cases hc
  | _ => cases h

theorem needsInit_keeps_cursor {i : Instr} (h : needsInit i = true) (s : State) :
    ∃ t, exec i s = .next t ∧ SameCursor s t := by
  obtain ⟨rs, -, -, he⟩ := exec_needsInit h s
  refine ⟨_, he, ?_⟩
  obtain ⟨-, hn⟩ | ⟨-, hk⟩ := whenInitialized_cases s (runProg none (rs.map .tx ++ ctrlTail i))
  · exact hn ▸ .refl s
  · exact hk ▸ (runProg_frame none _ s).2

/-- Only SETCURSOR and the text operations write the cursor (R304). -/
theorem exec_keeps_cursor {i : Instr} {s t : State} (he : exec i s = .next t) (hc : setsCursor i = false) :
    SameCursor s t := by
  obtain ⟨t', ht', hsame⟩ : ∃ t', exec i s = .next t' ∧ SameCursor s t' := by
    obtain h | rfl | rfl | h := instr_kinds i
    · exact drawing_keeps_cursor h hc s
    · exact ⟨_, exec_init s, (runProg_frame _ _ { s with ctrlState := .uninitialized }).2⟩
    · exact ⟨_, exec_reset s, (runProg_frame none _ s).2⟩
    · exact needsInit_keeps_cursor h s
  exact next_unique he ht' ▸ hsame

/-! ### Turns that leave the cursor -/

theorem answerTurn_keeps_cursor (a : TxAnswer) (s : State) : SameCursor s (answerTurn a s) := by
  unfold answerTurn
  split
  · next w _ =>
    split
    · exact (takeAnswer_frame w a s).2
    · exact .refl s
  · exact .refl s
  · exact .refl s

theorem resume_keeps_cursor (w : Wait) (s : State) : SameCursor s (resume w s) := by
  obtain ⟨-, h⟩ | ⟨-, -, h⟩ | ⟨-, a, as, -, h⟩ := resume_cases w s <;> rw [h]
  · exact (runProg_frame w.failTo w.rest s).2
  · exact .refl s
  · exact (takeAnswer_frame w a { s with txAnswers := as }).2

theorem engineTurn_keeps_cursor {s t : State} (ht : engineTurn s = .next t) (hp : s.phase ≠ .idle) :
    SameCursor s t := by
  obtain ⟨t', ht', hstep⟩ := engineTurn_cases s
  obtain rfl := next_unique ht ht'
  cases hstep with
  | run q i _ hidle => exact absurd hidle hp
  | resume w => exact resume_keeps_cursor w s
  | wait | enterDiscard | dropWord | illegal => exact .refl s

theorem hostTurn_keeps_cursor {s t : State} (ht : hostTurn s = .next t) : SameCursor s t :=
  let ⟨⟨_, _, hcursor, _⟩, _⟩ := hostTurn_block ht
  hcursor

/-! ### What a host turn does to Q -/

/-- Q is as it was, or has one word more at its end (R74). -/
def AtMostPushed (s t : State) : Prop := t.queue = s.queue ∨ ∃ v, t.queue = s.queue ++ [v]

theorem pushCmd_atMostPushed (s : State) (v : Word) : AtMostPushed s (pushCmd s v) := by
  obtain ⟨-, h⟩ | ⟨-, h⟩ := pushCmd_cases s v <;> rw [h]
  · exact .inr ⟨v, rfl⟩
  · exact .inl rfl

theorem hostWrite_atMostPushed (s : State) (off : Nat) (v : Word) : AtMostPushed s (hostWrite s off v) := by
  unfold hostWrite
  split_ifs
  · exact pushCmd_atMostPushed s v
  · exact .inl rfl
  · exact .inl rfl

theorem hostAccess_atMostPushed {a : HostAccess} {s t : State} (h : hostAccess a s = .next t) : AtMostPushed s t := by
  have hl : ListedOp s.cfg a := by
    by_contra hn
    rw [hostAccess_unlisted hn] at h
    cases h
  cases a with
  | read width addr =>
    obtain ⟨off, rfl⟩ := listedAccess_offset hl
    exact next_unique (hostAccess_read hl) h ▸ .inl rfl
  | write width addr v =>
    obtain ⟨off, rfl⟩ := listedAccess_offset hl
    exact next_unique (hostAccess_write v hl) h ▸ hostWrite_atMostPushed s off v

theorem hostTurn_atMostPushed {s t : State} (h : hostTurn s = .next t) : AtMostPushed s t := by
  unfold hostTurn at h
  split at h
  · next v _ =>
    cases h
    exact pushCmd_atMostPushed { s with held := none } v
  · split at h
    · cases h
      exact .inl rfl
    · next a ops _ => exact hostAccess_atMostPushed (s := { s with hostOps := ops }) h

/-! ### Turns that move the cursor -/

/-- The descriptor at the head of these words is SETCURSOR or a text operation (R304). -/
def HeadSetsCursor (q : List Word) : Prop := ∃ i rest, decode q = .ok (i, rest) ∧ setsCursor i = true

theorem takeDescriptor_cursor {h : Word} {ws : List Word} {s t : State} (ht : takeDescriptor h ws s = .next t) :
    SameCursor s t ∨ HeadSetsCursor (h :: ws) := by
  unfold takeDescriptor at ht
  split at ht
  · cases ht
    exact .inl (.refl s)
  · split at ht
    · cases ht
      exact .inl (.refl s)
    · split at ht
      · next i rest hd =>
        cases hc : setsCursor i with
        | true => exact .inr ⟨i, rest, hd, hc⟩
        | false => exact .inl (exec_keeps_cursor (s := { s with queue := rest }) ht hc)
      · cases ht
        exact .inl (.refl s)

/-- The engine moves the cursor only from Idle, by the descriptor at the head of Q (R304). -/
theorem engineTurn_cursor {s t : State} (ht : engineTurn s = .next t) :
    SameCursor s t ∨ (s.phase = .idle ∧ HeadSetsCursor s.queue) := by
  by_cases hp : s.phase = .idle
  · cases hq : s.queue with
    | nil =>
      simp only [engineTurn, hp, hq] at ht
      cases ht
      exact .inl (.refl s)
    | cons h ws =>
      rw [engineTurn_idle hp hq] at ht
      exact (takeDescriptor_cursor ht).imp_right fun hh => ⟨hp, hh⟩
  · exact .inl (engineTurn_keeps_cursor ht hp)

/-- In a shared cycle the engine sees Q after the host's CMD write (R48, log 14). -/
theorem bothTurn_cursor {s t : State} (ht : takeTurn .both s = .next t) :
    SameCursor s t
      ∨ (s.phase = .idle ∧ ∃ q, (q = s.queue ∨ ∃ v, q = s.queue ++ [v]) ∧ HeadSetsCursor q) := by
  simp only [takeTurn] at ht
  split at ht
  · next u hu =>
    obtain ⟨⟨-, -, ⟨hx, hy⟩, -, hphase, -⟩, -⟩ := hostTurn_block hu
    obtain ⟨hx', hy'⟩ | ⟨hidle, hhead⟩ := engineTurn_cursor ht
    · exact .inl ⟨hx'.trans hx, hy'.trans hy⟩
    · exact .inr ⟨hphase ▸ hidle, u.queue, hostTurn_atMostPushed hu, hhead⟩
  · cases ht
  · cases ht

/-- A step that moves the cursor is a block reset, or the engine's with such a descriptor at the head of Q, which in a
shared cycle the host's CMD write may complete (R304). -/
theorem step_cursor {s t : State} (ht : step s = .next t) (hm : ¬ SameCursor s t) :
    s.schedule.head? = some .blockReset
      ∨ (s.phase = .idle ∧ ∃ q, (q = s.queue ∨ (s.schedule.head? = some .both ∧ ∃ v, q = s.queue ++ [v]))
          ∧ HeadSetsCursor q) := by
  unfold step at ht
  split at ht
  · obtain ⟨hp, hhead⟩ := (engineTurn_cursor ht).resolve_left hm
    exact .inr ⟨hp, s.queue, .inl rfl, hhead⟩
  · next turn ts hs =>
    cases turn with
    | blockReset => exact .inl (congrArg List.head? hs)
    | engine =>
      obtain ⟨hp, hhead⟩ := (engineTurn_cursor (s := { s with schedule := ts }) ht).resolve_left hm
      exact .inr ⟨hp, s.queue, .inl rfl, hhead⟩
    | both =>
      obtain ⟨hp, q, hq, hhead⟩ := (bothTurn_cursor (s := { s with schedule := ts }) ht).resolve_left hm
      exact .inr ⟨hp, q, hq.imp_right fun hv => ⟨congrArg List.head? hs, hv⟩, hhead⟩
    | host => exact absurd (hostTurn_keeps_cursor (s := { s with schedule := ts }) ht) hm
    | answer a =>
      cases ht
      exact absurd (answerTurn_keeps_cursor a { s with schedule := ts }) hm

/-- Settles O16: the turns that leave the cursor, and what is left for a step that moves it. -/
theorem onlyTextAndSetCursorMoveTheCursor : Obligations.OnlyTextAndSetCursorMoveTheCursor := by
  refine ⟨fun s t ht hm => ?_, fun _ _ _ => exec_keeps_cursor, fun _ _ => hostTurn_keeps_cursor,
    answerTurn_keeps_cursor, fun _ _ => engineTurn_keeps_cursor⟩
  refine (step_cursor ht hm).imp_right fun ⟨hp, q, hq, i, rest, hd, hc⟩ => ?_
  exact ⟨hp, q, i, rest, hq, hd, hc⟩

end Sys2Proof.Machine
end
